-- ==== Sys2Proof/Word.lean ====
section
/-! DEFINITION. The two word types of the core (00_scope.md R8): registers and memory cells of 8 bits,
pairs and logical addresses of 16 bits. Arithmetic on them wraps, as 00_scope.md R11 asks. -/

namespace Sys2Proof

/-- An 8-bit register or memory cell (00_scope.md R8). -/
abbrev Byte := BitVec 8

/-- A 16-bit pair, index register, SP, PC or logical address (00_scope.md R8). -/
abbrev Word := BitVec 16

end Sys2Proof
end

