-- ==== Sys2Proof/Machine/Bits.lean ====
section
/-! DEFINITION. Halves, concatenation and sign extension of words (00_scope.md R10-R12). -/

namespace Sys2Proof

/-- `hi8(w) = w[15:8]` (00_scope.md R11). -/
def hi8 (w : Word) : Byte := (w >>> 8).setWidth 8

/-- `lo8(w) = w[7:0]` (00_scope.md R11). -/
def lo8 (w : Word) : Byte := w.setWidth 8

/-- `{hi, lo} = hi * 256 + lo` (00_scope.md R11). -/
def pack (hi lo : Byte) : Word := hi ++ lo

/-- `signed8(d)` reduced mod 2^16 (00_scope.md R12): d below 0x80, else d + 0xFF00. -/
def sext16 (d : Byte) : Word := d.signExtend 16

/-- The single bit `b` of an 8-bit value, as `1 << b` (44_rotate_bit.md R251). -/
def bitMask (b : BitVec 3) : Byte := 1#8 <<< b.toNat

end Sys2Proof
end

