-- ==== Sys2Proof/Syntax.lean ====
section
/-! DEFINITION. The instructions: one constructor for each row of spec/opcode_table.json, in the table's
order, with the operand codes of 30_encoding.md R89-R93 turned into names. A memory operand `(x)` is
written `Ind`, an indexed operand `(xy+d)` is written `Idx`. -/

namespace Sys2Proof

/-- The 8-bit register code r (30_encoding.md R89). Code 110 is the memory operand `(HL)` and has
constructors of its own. -/
inductive Reg8 where
  | b | c | d | e | h | l | a
  deriving DecidableEq, Repr

/-- The index register `xy`: IX after the byte DD, IY after FD (30_encoding.md R95). -/
inductive IdxReg where
  | ix | iy
  deriving DecidableEq, Repr

/-- The pair code dd / ss (30_encoding.md R90). -/
inductive Pair where
  | bc | de | hl | sp
  deriving DecidableEq, Repr

/-- The pair code qq of PUSH and POP (30_encoding.md R90). -/
inductive StackPair where
  | bc | de | hl | af
  deriving DecidableEq, Repr

/-- The pair code pp (after DD) and rr (after FD): code 10 is the index register itself
(30_encoding.md R90). -/
inductive IdxPair where
  | bc | de | xy | sp
  deriving DecidableEq, Repr

/-- The condition code cc (30_encoding.md R91). -/
inductive Cond where
  | nz | z | nc | c | po | pe | p | m
  deriving DecidableEq, Repr

/-- The instructions of spec/opcode_table.json. `r`, `s` are registers, `n` an immediate byte, `nn` a
16-bit immediate or address, `d` an index displacement, `e` a branch displacement, `b` a bit number. -/
inductive Instr where
  -- 40_load8.md
  | ldRR (r s : Reg8)
  | ldRN (r : Reg8) (n : Byte)
  | ldRIndHl (r : Reg8)
  | ldIndHlR (r : Reg8)
  | ldIndHlN (n : Byte)
  | ldAIndBc
  | ldAIndDe
  | ldAIndNn (nn : Word)
  | ldIndBcA
  | ldIndDeA
  | ldIndNnA (nn : Word)
  | ldRIdx (r : Reg8) (xy : IdxReg) (d : Byte)
  | ldIdxR (xy : IdxReg) (d : Byte) (r : Reg8)
  | ldIdxN (xy : IdxReg) (d : Byte) (n : Byte)
  | ldAI
  | ldAR
  | ldIA
  | ldRA
  -- 41_load16_exchange_block.md
  | ldDdNn (dd : Pair) (nn : Word)
  | ldXyNn (xy : IdxReg) (nn : Word)
  | ldHlIndNn (nn : Word)
  | ldDdIndNn (dd : Pair) (nn : Word)
  | ldXyIndNn (xy : IdxReg) (nn : Word)
  | ldIndNnHl (nn : Word)
  | ldIndNnDd (nn : Word) (dd : Pair)
  | ldIndNnXy (nn : Word) (xy : IdxReg)
  | ldSpHl
  | ldSpXy (xy : IdxReg)
  | pushQq (qq : StackPair)
  | pushXy (xy : IdxReg)
  | popQq (qq : StackPair)
  | popXy (xy : IdxReg)
  | exDeHl
  | exAfAf
  | exx
  | exIndSpHl
  | exIndSpXy (xy : IdxReg)
  | ldi
  | ldir
  | ldd
  | lddr
  | cpi
  | cpir
  | cpd
  | cpdr
  -- 42_alu8_control.md
  | addAR (r : Reg8)
  | addAN (n : Byte)
  | addAIndHl
  | addAIdx (xy : IdxReg) (d : Byte)
  | adcAR (r : Reg8)
  | adcAN (n : Byte)
  | adcAIndHl
  | adcAIdx (xy : IdxReg) (d : Byte)
  | subR (r : Reg8)
  | subN (n : Byte)
  | subIndHl
  | subIdx (xy : IdxReg) (d : Byte)
  | sbcAR (r : Reg8)
  | sbcAN (n : Byte)
  | sbcAIndHl
  | sbcAIdx (xy : IdxReg) (d : Byte)
  | andR (r : Reg8)
  | andN (n : Byte)
  | andIndHl
  | andIdx (xy : IdxReg) (d : Byte)
  | xorR (r : Reg8)
  | xorN (n : Byte)
  | xorIndHl
  | xorIdx (xy : IdxReg) (d : Byte)
  | orR (r : Reg8)
  | orN (n : Byte)
  | orIndHl
  | orIdx (xy : IdxReg) (d : Byte)
  | cpR (r : Reg8)
  | cpN (n : Byte)
  | cpIndHl
  | cpIdx (xy : IdxReg) (d : Byte)
  | incR (r : Reg8)
  | incIndHl
  | incIdx (xy : IdxReg) (d : Byte)
  | decR (r : Reg8)
  | decIndHl
  | decIdx (xy : IdxReg) (d : Byte)
  | daa
  | cpl
  | neg
  | ccf
  | scf
  | nop
  | halt
  | di
  | ei
  | im0
  | im1
  | im2
  -- 43_alu16.md
  | addHlSs (ss : Pair)
  | adcHlSs (ss : Pair)
  | sbcHlSs (ss : Pair)
  | addXyPp (xy : IdxReg) (pp : IdxPair)
  | incSs (ss : Pair)
  | incXy (xy : IdxReg)
  | decSs (ss : Pair)
  | decXy (xy : IdxReg)
  -- 44_rotate_bit.md
  | rlca
  | rla
  | rrca
  | rra
  | rlcR (r : Reg8)
  | rlcIndHl
  | rlcIdx (xy : IdxReg) (d : Byte)
  | rrcR (r : Reg8)
  | rrcIndHl
  | rrcIdx (xy : IdxReg) (d : Byte)
  | rlR (r : Reg8)
  | rlIndHl
  | rlIdx (xy : IdxReg) (d : Byte)
  | rrR (r : Reg8)
  | rrIndHl
  | rrIdx (xy : IdxReg) (d : Byte)
  | slaR (r : Reg8)
  | slaIndHl
  | slaIdx (xy : IdxReg) (d : Byte)
  | sraR (r : Reg8)
  | sraIndHl
  | sraIdx (xy : IdxReg) (d : Byte)
  | srlR (r : Reg8)
  | srlIndHl
  | srlIdx (xy : IdxReg) (d : Byte)
  | rld
  | rrd
  | bitR (b : BitVec 3) (r : Reg8)
  | bitIndHl (b : BitVec 3)
  | bitIdx (b : BitVec 3) (xy : IdxReg) (d : Byte)
  | setR (b : BitVec 3) (r : Reg8)
  | setIndHl (b : BitVec 3)
  | setIdx (b : BitVec 3) (xy : IdxReg) (d : Byte)
  | resR (b : BitVec 3) (r : Reg8)
  | resIndHl (b : BitVec 3)
  | resIdx (b : BitVec 3) (xy : IdxReg) (d : Byte)
  -- 45_jump_call.md
  | jpNn (nn : Word)
  | jpCcNn (cc : Cond) (nn : Word)
  | jrE (e : Byte)
  | jrCcE (cc : Cond) (e : Byte)
  | jpIndHl
  | jpIndXy (xy : IdxReg)
  | djnzE (e : Byte)
  | callNn (nn : Word)
  | callCcNn (cc : Cond) (nn : Word)
  | ret
  | reti
  | retn
  | rstP (p : Byte)
  | retCc (cc : Cond)
  -- 46_io.md
  | inAIndN (n : Byte)
  | inRIndC (r : Reg8)
  | outIndNA (n : Byte)
  | outIndCR (r : Reg8)
  | ini
  | inir
  | ind
  | indr
  | outi
  | otir
  | outd
  | otdr
  deriving DecidableEq, Repr

end Sys2Proof
end

