-- ==== Sys2Proof/WellFormed.lean ====
section
/-! DEFINITION. The operand bounds that the types of Syntax.lean do not carry: JR takes only the first
four conditions, and RST only the eight restart targets. Every other term of Instr is an instruction. -/

namespace Sys2Proof

/-- JR cc uses only codes 000-011: NZ, Z, NC, C (30_encoding.md R91). -/
def Cond.allowedInJr : Cond → Bool
  | .nz | .z | .nc | .c => true
  | .po | .pe | .p | .m => false

/-- A restart target is t * 8 for a 3-bit t: one of 00, 08, 10, 18, 20, 28, 30, 38
(30_encoding.md R85). -/
def restartTarget (p : Byte) : Bool := p &&& 0xC7#8 == 0#8

/-- The instruction is one that some encoding of the opcode table stands for. -/
def Instr.wellFormed : Instr → Bool
  | .jrCcE cc _ => cc.allowedInJr
  | .rstP p => restartTarget p
  -- 40_load8.md
  | .ldRR _ _ | .ldRN _ _ | .ldRIndHl _ | .ldIndHlR _ | .ldIndHlN _ | .ldAIndBc | .ldAIndDe
    | .ldAIndNn _ | .ldIndBcA | .ldIndDeA | .ldIndNnA _ | .ldRIdx _ _ _ | .ldIdxR _ _ _
    | .ldIdxN _ _ _ | .ldAI | .ldAR | .ldIA | .ldRA => true
  -- 41_load16_exchange_block.md
  | .ldDdNn _ _ | .ldXyNn _ _ | .ldHlIndNn _ | .ldDdIndNn _ _ | .ldXyIndNn _ _ | .ldIndNnHl _
    | .ldIndNnDd _ _ | .ldIndNnXy _ _ | .ldSpHl | .ldSpXy _ | .pushQq _ | .pushXy _ | .popQq _
    | .popXy _ | .exDeHl | .exAfAf | .exx | .exIndSpHl | .exIndSpXy _ | .ldi | .ldir | .ldd | .lddr
    | .cpi | .cpir | .cpd | .cpdr => true
  -- 42_alu8_control.md
  | .addAR _ | .addAN _ | .addAIndHl | .addAIdx _ _ | .adcAR _ | .adcAN _ | .adcAIndHl | .adcAIdx _ _
    | .subR _ | .subN _ | .subIndHl | .subIdx _ _ | .sbcAR _ | .sbcAN _ | .sbcAIndHl | .sbcAIdx _ _
    | .andR _ | .andN _ | .andIndHl | .andIdx _ _ | .xorR _ | .xorN _ | .xorIndHl | .xorIdx _ _
    | .orR _ | .orN _ | .orIndHl | .orIdx _ _ | .cpR _ | .cpN _ | .cpIndHl | .cpIdx _ _ | .incR _
    | .incIndHl | .incIdx _ _ | .decR _ | .decIndHl | .decIdx _ _ | .daa | .cpl | .neg | .ccf | .scf
    | .nop | .halt | .di | .ei | .im0 | .im1 | .im2 => true
  -- 43_alu16.md
  | .addHlSs _ | .adcHlSs _ | .sbcHlSs _ | .addXyPp _ _ | .incSs _ | .incXy _ | .decSs _
    | .decXy _ => true
  -- 44_rotate_bit.md
  | .rlca | .rla | .rrca | .rra | .rlcR _ | .rlcIndHl | .rlcIdx _ _ | .rrcR _ | .rrcIndHl
    | .rrcIdx _ _ | .rlR _ | .rlIndHl | .rlIdx _ _ | .rrR _ | .rrIndHl | .rrIdx _ _ | .slaR _
    | .slaIndHl | .slaIdx _ _ | .sraR _ | .sraIndHl | .sraIdx _ _ | .srlR _ | .srlIndHl | .srlIdx _ _
    | .rld | .rrd | .bitR _ _ | .bitIndHl _ | .bitIdx _ _ _ | .setR _ _ | .setIndHl _ | .setIdx _ _ _
    | .resR _ _ | .resIndHl _ | .resIdx _ _ _ => true
  -- 45_jump_call.md
  | .jpNn _ | .jpCcNn _ _ | .jrE _ | .jpIndHl | .jpIndXy _ | .djnzE _ | .callNn _ | .callCcNn _ _
    | .ret | .reti | .retn | .retCc _ => true
  -- 46_io.md
  | .inAIndN _ | .inRIndC _ | .outIndNA _ | .outIndCR _ | .ini | .inir | .ind | .indr | .outi | .otir
    | .outd | .otdr => true

end Sys2Proof
end

