-- ==== Sys2Proof/Decode.lean ====
section
/-! DEFINITION. The decoder (30_encoding.md R76-R99), total on any bytes and rejecting by name, and after
it the encoder, written from the formats and byte patterns of the instruction rules. -/

namespace Sys2Proof

/-- The four kinds of bytes that are no instruction (30_encoding.md R97), by the table that has no row. -/
inductive DecodeError where
  /-- CB 30 to CB 37. -/
  | cbRow
  /-- An ED second byte outside 30_encoding.md R96. -/
  | edRow
  /-- A DD/FD second byte outside 30_encoding.md R95. -/
  | xyRow
  /-- An XYCB final byte outside 30_encoding.md R99. -/
  | xycbRow
  deriving DecidableEq, Repr

/-- How many bytes of the encoding had been read when it was rejected (60_exceptions.md R284). -/
def DecodeError.bytesRead : DecodeError → Nat
  | .cbRow | .edRow | .xyRow => 2
  | .xycbRow => 4

/-! ### Operand codes -/

/-- 8-bit register codes (30_encoding.md R89); 110 is no register. -/
def Reg8.ofCode : Nat → Option Reg8
  | 0 => some .b
  | 1 => some .c
  | 2 => some .d
  | 3 => some .e
  | 4 => some .h
  | 5 => some .l
  | 7 => some .a
  | _ => none

/-- Pair codes dd / ss (30_encoding.md R90), of a 2-bit field. -/
def Pair.ofCode : Nat → Pair
  | 0 => .bc
  | 1 => .de
  | 2 => .hl
  | _ => .sp

/-- Pair codes qq (30_encoding.md R90), of a 2-bit field. -/
def StackPair.ofCode : Nat → StackPair
  | 0 => .bc
  | 1 => .de
  | 2 => .hl
  | _ => .af

/-- Pair codes pp / rr (30_encoding.md R90), of a 2-bit field. -/
def IdxPair.ofCode : Nat → IdxPair
  | 0 => .bc
  | 1 => .de
  | 2 => .xy
  | _ => .sp

/-- Condition codes (30_encoding.md R91), of a 3-bit field. -/
def Cond.ofCode : Nat → Cond
  | 0 => .nz
  | 1 => .z
  | 2 => .nc
  | 3 => .c
  | 4 => .po
  | 5 => .pe
  | 6 => .p
  | _ => .m

/-- The operand of an 8-bit ALU instruction or of a rotate: a register, or the byte at HL for code 110
(30_encoding.md R107). -/
def pickReg (z : Nat) (reg : Reg8 → Instr) (indHl : Instr) : Instr :=
  match Reg8.ofCode z with
  | some r => reg r
  | none => indHl

/-- The ALU instruction of operation code y with a register or (HL) operand (30_encoding.md R92). -/
def aluOperand (y z : Nat) : Instr :=
  match y with
  | 0 => pickReg z .addAR .addAIndHl
  | 1 => pickReg z .adcAR .adcAIndHl
  | 2 => pickReg z .subR .subIndHl
  | 3 => pickReg z .sbcAR .sbcAIndHl
  | 4 => pickReg z .andR .andIndHl
  | 5 => pickReg z .xorR .xorIndHl
  | 6 => pickReg z .orR .orIndHl
  | _ => pickReg z .cpR .cpIndHl

/-- The ALU instruction of operation code y with an immediate operand (30_encoding.md R92). -/
def aluImmediate (y : Nat) (n : Byte) : Instr :=
  match y with
  | 0 => .addAN n
  | 1 => .adcAN n
  | 2 => .subN n
  | 3 => .sbcAN n
  | 4 => .andN n
  | 5 => .xorN n
  | 6 => .orN n
  | _ => .cpN n

/-- The ALU instruction of operation code y with an indexed operand (30_encoding.md R92). -/
def aluIndexed (y : Nat) (xy : IdxReg) (d : Byte) : Instr :=
  match y with
  | 0 => .addAIdx xy d
  | 1 => .adcAIdx xy d
  | 2 => .subIdx xy d
  | 3 => .sbcAIdx xy d
  | 4 => .andIdx xy d
  | 5 => .xorIdx xy d
  | 6 => .orIdx xy d
  | _ => .cpIdx xy d

/-! ### The opcode maps, by the fields x = op[7:6], y = op[5:3], z = op[2:0], p = op[5:4], q = op[3]
(30_encoding.md R78) -/

/-- Rows 0x00-0x3F of the unprefixed map (30_encoding.md R94). -/
def decodeX0 (y z : Nat) (b1 b2 : Byte) : Instr :=
  match z with
  | 0 =>
    match y with
    | 0 => .nop
    | 1 => .exAfAf
    | 2 => .djnzE b1
    | 3 => .jrE b1
    | _ => .jrCcE (Cond.ofCode (y % 4)) b1
  | 1 => if y % 2 = 0 then .ldDdNn (Pair.ofCode (y / 2)) (pack b2 b1) else .addHlSs (Pair.ofCode (y / 2))
  | 2 =>
    match y with
    | 0 => .ldIndBcA
    | 1 => .ldAIndBc
    | 2 => .ldIndDeA
    | 3 => .ldAIndDe
    | 4 => .ldIndNnHl (pack b2 b1)
    | 5 => .ldHlIndNn (pack b2 b1)
    | 6 => .ldIndNnA (pack b2 b1)
    | _ => .ldAIndNn (pack b2 b1)
  | 3 => if y % 2 = 0 then .incSs (Pair.ofCode (y / 2)) else .decSs (Pair.ofCode (y / 2))
  | 4 => pickReg y .incR .incIndHl
  | 5 => pickReg y .decR .decIndHl
  | 6 => pickReg y (fun r => .ldRN r b1) (.ldIndHlN b1)
  | _ =>
    match y with
    | 0 => .rlca
    | 1 => .rrca
    | 2 => .rla
    | 3 => .rra
    | 4 => .daa
    | 5 => .cpl
    | 6 => .scf
    | _ => .ccf

/-- Rows 0x40-0x7F: the register loads, and HALT at 0x76 (30_encoding.md R94, R107). -/
def decodeX1 (y z : Nat) : Instr :=
  match Reg8.ofCode y, Reg8.ofCode z with
  | some r, some s => .ldRR r s
  | some r, none => .ldRIndHl r
  | none, some s => .ldIndHlR s
  | none, none => .halt

/-- The bytes after CB (30_encoding.md R87, R98). -/
def decodeCb (op : Byte) : Except DecodeError Instr :=
  let y := op.toNat / 8 % 8
  let z := op.toNat % 8
  let b : BitVec 3 := BitVec.ofNat 3 y
  match op.toNat / 64 with
  | 0 =>
    match y with
    | 0 => .ok (pickReg z .rlcR .rlcIndHl)
    | 1 => .ok (pickReg z .rrcR .rrcIndHl)
    | 2 => .ok (pickReg z .rlR .rlIndHl)
    | 3 => .ok (pickReg z .rrR .rrIndHl)
    | 4 => .ok (pickReg z .slaR .slaIndHl)
    | 5 => .ok (pickReg z .sraR .sraIndHl)
    | 6 => .error .cbRow
    | _ => .ok (pickReg z .srlR .srlIndHl)
  | 1 => .ok (pickReg z (.bitR b) (.bitIndHl b))
  | 2 => .ok (pickReg z (.resR b) (.resIndHl b))
  | _ => .ok (pickReg z (.setR b) (.setIndHl b))

/-- The final bytes of the XYCB map (30_encoding.md R99): only those whose low 3 bits are 110. -/
def decodeXyCb (xy : IdxReg) (d op : Byte) : Except DecodeError Instr :=
  let y := op.toNat / 8 % 8
  let b : BitVec 3 := BitVec.ofNat 3 y
  if op.toNat % 8 = 6 then
    match op.toNat / 64 with
    | 0 =>
      match y with
      | 0 => .ok (.rlcIdx xy d)
      | 1 => .ok (.rrcIdx xy d)
      | 2 => .ok (.rlIdx xy d)
      | 3 => .ok (.rrIdx xy d)
      | 4 => .ok (.slaIdx xy d)
      | 5 => .ok (.sraIdx xy d)
      | 6 => .error .xycbRow
      | _ => .ok (.srlIdx xy d)
    | 1 => .ok (.bitIdx b xy d)
    | 2 => .ok (.resIdx b xy d)
    | _ => .ok (.setIdx b xy d)
  else .error .xycbRow

/-- Rows 0x40-0x7F of the ED map (30_encoding.md R96). -/
def decodeEdX1 (y z : Nat) (b2 b3 : Byte) : Except DecodeError Instr :=
  match z with
  | 0 =>
    match Reg8.ofCode y with
    | some r => .ok (.inRIndC r)
    | none => .error .edRow
  | 1 =>
    match Reg8.ofCode y with
    | some r => .ok (.outIndCR r)
    | none => .error .edRow
  | 2 => .ok (if y % 2 = 0 then .sbcHlSs (Pair.ofCode (y / 2)) else .adcHlSs (Pair.ofCode (y / 2)))
  | 3 => .ok (if y % 2 = 0 then .ldIndNnDd (pack b3 b2) (Pair.ofCode (y / 2))
      else .ldDdIndNn (Pair.ofCode (y / 2)) (pack b3 b2))
  | 4 => if y = 0 then .ok .neg else .error .edRow
  | 5 =>
    match y with
    | 0 => .ok .retn
    | 1 => .ok .reti
    | _ => .error .edRow
  | 6 =>
    match y with
    | 0 => .ok .im0
    | 2 => .ok .im1
    | 3 => .ok .im2
    | _ => .error .edRow
  | _ =>
    match y with
    | 0 => .ok .ldIA
    | 1 => .ok .ldRA
    | 2 => .ok .ldAI
    | 3 => .ok .ldAR
    | 4 => .ok .rrd
    | 5 => .ok .rld
    | _ => .error .edRow

/-- Rows 0x80-0xBF of the ED map: the block instructions (30_encoding.md R96). -/
def decodeEdX2 (y z : Nat) : Except DecodeError Instr :=
  match y, z with
  | 4, 0 => .ok .ldi
  | 4, 1 => .ok .cpi
  | 4, 2 => .ok .ini
  | 4, 3 => .ok .outi
  | 5, 0 => .ok .ldd
  | 5, 1 => .ok .cpd
  | 5, 2 => .ok .ind
  | 5, 3 => .ok .outd
  | 6, 0 => .ok .ldir
  | 6, 1 => .ok .cpir
  | 6, 2 => .ok .inir
  | 6, 3 => .ok .otir
  | 7, 0 => .ok .lddr
  | 7, 1 => .ok .cpdr
  | 7, 2 => .ok .indr
  | 7, 3 => .ok .otdr
  | _, _ => .error .edRow

/-- The bytes after ED (30_encoding.md R88, R96). -/
def decodeEd (op b2 b3 : Byte) : Except DecodeError Instr :=
  let y := op.toNat / 8 % 8
  let z := op.toNat % 8
  match op.toNat / 64 with
  | 1 => decodeEdX1 y z b2 b3
  | 2 => decodeEdX2 y z
  | _ => .error .edRow

/-- The bytes after DD or FD (30_encoding.md R95). -/
def decodeXy (xy : IdxReg) (op b2 b3 : Byte) : Except DecodeError Instr :=
  let y := op.toNat / 8 % 8
  let z := op.toNat % 8
  match op.toNat / 64 with
  | 0 =>
    match y, z with
    | 4, 1 => .ok (.ldXyNn xy (pack b3 b2))
    | 4, 2 => .ok (.ldIndNnXy (pack b3 b2) xy)
    | 4, 3 => .ok (.incXy xy)
    | 5, 2 => .ok (.ldXyIndNn xy (pack b3 b2))
    | 5, 3 => .ok (.decXy xy)
    | 6, 4 => .ok (.incIdx xy b2)
    | 6, 5 => .ok (.decIdx xy b2)
    | 6, 6 => .ok (.ldIdxN xy b2 b3)
    | _, 1 => if y % 2 = 1 then .ok (.addXyPp xy (IdxPair.ofCode (y / 2))) else .error .xyRow
    | _, _ => .error .xyRow
  | 1 =>
    match Reg8.ofCode y, Reg8.ofCode z with
    | some r, none => .ok (.ldRIdx r xy b2)
    | none, some s => .ok (.ldIdxR xy b2 s)
    | _, _ => .error .xyRow
  | 2 => if z = 6 then .ok (aluIndexed y xy b2) else .error .xyRow
  | _ =>
    match y, z with
    | 1, 3 => decodeXyCb xy b2 b3
    | 4, 1 => .ok (.popXy xy)
    | 4, 3 => .ok (.exIndSpXy xy)
    | 4, 5 => .ok (.pushXy xy)
    | 5, 1 => .ok (.jpIndXy xy)
    | 7, 1 => .ok (.ldSpXy xy)
    | _, _ => .error .xyRow

/-- Rows 0xC0-0xFF of the unprefixed map, the four first bytes CB, DD, ED and FD leading to the other
tables (30_encoding.md R86, R94). -/
def decodeX3 (y z : Nat) (b1 b2 b3 : Byte) : Except DecodeError Instr :=
  match z with
  | 0 => .ok (.retCc (Cond.ofCode y))
  | 1 =>
    match y with
    | 1 => .ok .ret
    | 3 => .ok .exx
    | 5 => .ok .jpIndHl
    | 7 => .ok .ldSpHl
    | _ => .ok (.popQq (StackPair.ofCode (y / 2)))
  | 2 => .ok (.jpCcNn (Cond.ofCode y) (pack b2 b1))
  | 3 =>
    match y with
    | 0 => .ok (.jpNn (pack b2 b1))
    | 1 => decodeCb b1
    | 2 => .ok (.outIndNA b1)
    | 3 => .ok (.inAIndN b1)
    | 4 => .ok .exIndSpHl
    | 5 => .ok .exDeHl
    | 6 => .ok .di
    | _ => .ok .ei
  | 4 => .ok (.callCcNn (Cond.ofCode y) (pack b2 b1))
  | 5 =>
    match y with
    | 1 => .ok (.callNn (pack b2 b1))
    | 3 => decodeXy .ix b1 b2 b3
    | 5 => decodeEd b1 b2 b3
    | 7 => decodeXy .iy b1 b2 b3
    | _ => .ok (.pushQq (StackPair.ofCode (y / 2)))
  | 6 => .ok (aluImmediate y b1)
  | _ => .ok (.rstP (BitVec.ofNat 8 (y * 8)))

/-- The instruction whose bytes are b0, b1, b2, b3 in address order, as many of them as it has
(30_encoding.md R76, R86); or the name of the table that has no row for them. -/
def decode (b0 b1 b2 b3 : Byte) : Except DecodeError Instr :=
  let y := b0.toNat / 8 % 8
  let z := b0.toNat % 8
  match b0.toNat / 64 with
  | 0 => .ok (decodeX0 y z b1 b2)
  | 1 => .ok (decodeX1 y z)
  | 2 => .ok (aluOperand y z)
  | _ => decodeX3 y z b1 b2 b3

/-- `decode` on a list of bytes; a byte the list does not hold reads 0. -/
def decodeBytes (bs : List Byte) : Except DecodeError Instr :=
  decode (bs.getD 0 0#8) (bs.getD 1 0#8) (bs.getD 2 0#8) (bs.getD 3 0#8)

/-- A first byte after which PerM1 counts a second opcode fetch (10_state.md R31, 30_encoding.md R104):
CB, DD, ED or FD. -/
def isTableByte (b0 : Byte) : Bool :=
  b0 == 0xCB#8 || b0 == 0xDD#8 || b0 == 0xED#8 || b0 == 0xFD#8

/-! ### The encoder -/

/-- Register codes (30_encoding.md R89). -/
def Reg8.code : Reg8 → Nat
  | .b => 0
  | .c => 1
  | .d => 2
  | .e => 3
  | .h => 4
  | .l => 5
  | .a => 7

/-- Codes dd / ss (30_encoding.md R90). -/
def Pair.code : Pair → Nat
  | .bc => 0
  | .de => 1
  | .hl => 2
  | .sp => 3

/-- Codes qq (30_encoding.md R90). -/
def StackPair.code : StackPair → Nat
  | .bc => 0
  | .de => 1
  | .hl => 2
  | .af => 3

/-- Codes pp / rr (30_encoding.md R90). -/
def IdxPair.code : IdxPair → Nat
  | .bc => 0
  | .de => 1
  | .xy => 2
  | .sp => 3

/-- Codes cc (30_encoding.md R91). -/
def Cond.code : Cond → Nat
  | .nz => 0
  | .z => 1
  | .nc => 2
  | .c => 3
  | .po => 4
  | .pe => 5
  | .p => 6
  | .m => 7

/-- The byte DD for IX, FD for IY (30_encoding.md R95). -/
def IdxReg.byte : IdxReg → Byte
  | .ix => 0xDD#8
  | .iy => 0xFD#8

/-- The opcode byte of fields x, y, z (30_encoding.md R78). -/
def opXyz (x y z : Nat) : Byte := BitVec.ofNat 8 (x * 64 + y * 8 + z)

/-- The opcode byte of fields x, p, q, z (30_encoding.md R78). -/
def opXpqz (x p q z : Nat) : Byte := BitVec.ofNat 8 (x * 64 + p * 16 + q * 8 + z)

/-- The bytes of an instruction in address order: the "Encoding" line of its rule in 40_load8.md to
46_io.md. -/
def encode : Instr → List Byte
  | .ldRR r s => [opXyz 1 r.code s.code]
  | .ldRN r n => [opXyz 0 r.code 6, n]
  | .ldRIndHl r => [opXyz 1 r.code 6]
  | .ldIndHlR r => [opXyz 1 6 r.code]
  | .ldIndHlN n => [0x36#8, n]
  | .ldAIndBc => [0x0A#8]
  | .ldAIndDe => [0x1A#8]
  | .ldAIndNn nn => [0x3A#8, lo8 nn, hi8 nn]
  | .ldIndBcA => [0x02#8]
  | .ldIndDeA => [0x12#8]
  | .ldIndNnA nn => [0x32#8, lo8 nn, hi8 nn]
  | .ldRIdx r xy d => [xy.byte, opXyz 1 r.code 6, d]
  | .ldIdxR xy d r => [xy.byte, opXyz 1 6 r.code, d]
  | .ldIdxN xy d n => [xy.byte, 0x36#8, d, n]
  | .ldAI => [0xED#8, 0x57#8]
  | .ldAR => [0xED#8, 0x5F#8]
  | .ldIA => [0xED#8, 0x47#8]
  | .ldRA => [0xED#8, 0x4F#8]
  | .ldDdNn dd nn => [opXpqz 0 dd.code 0 1, lo8 nn, hi8 nn]
  | .ldXyNn xy nn => [xy.byte, 0x21#8, lo8 nn, hi8 nn]
  | .ldHlIndNn nn => [0x2A#8, lo8 nn, hi8 nn]
  | .ldDdIndNn dd nn => [0xED#8, opXpqz 1 dd.code 1 3, lo8 nn, hi8 nn]
  | .ldXyIndNn xy nn => [xy.byte, 0x2A#8, lo8 nn, hi8 nn]
  | .ldIndNnHl nn => [0x22#8, lo8 nn, hi8 nn]
  | .ldIndNnDd nn dd => [0xED#8, opXpqz 1 dd.code 0 3, lo8 nn, hi8 nn]
  | .ldIndNnXy nn xy => [xy.byte, 0x22#8, lo8 nn, hi8 nn]
  | .ldSpHl => [0xF9#8]
  | .ldSpXy xy => [xy.byte, 0xF9#8]
  | .pushQq qq => [opXpqz 3 qq.code 0 5]
  | .pushXy xy => [xy.byte, 0xE5#8]
  | .popQq qq => [opXpqz 3 qq.code 0 1]
  | .popXy xy => [xy.byte, 0xE1#8]
  | .exDeHl => [0xEB#8]
  | .exAfAf => [0x08#8]
  | .exx => [0xD9#8]
  | .exIndSpHl => [0xE3#8]
  | .exIndSpXy xy => [xy.byte, 0xE3#8]
  | .ldi => [0xED#8, 0xA0#8]
  | .ldir => [0xED#8, 0xB0#8]
  | .ldd => [0xED#8, 0xA8#8]
  | .lddr => [0xED#8, 0xB8#8]
  | .cpi => [0xED#8, 0xA1#8]
  | .cpir => [0xED#8, 0xB1#8]
  | .cpd => [0xED#8, 0xA9#8]
  | .cpdr => [0xED#8, 0xB9#8]
  | .addAR r => [opXyz 2 0 r.code]
  | .addAN n => [0xC6#8, n]
  | .addAIndHl => [0x86#8]
  | .addAIdx xy d => [xy.byte, 0x86#8, d]
  | .adcAR r => [opXyz 2 1 r.code]
  | .adcAN n => [0xCE#8, n]
  | .adcAIndHl => [0x8E#8]
  | .adcAIdx xy d => [xy.byte, 0x8E#8, d]
  | .subR r => [opXyz 2 2 r.code]
  | .subN n => [0xD6#8, n]
  | .subIndHl => [0x96#8]
  | .subIdx xy d => [xy.byte, 0x96#8, d]
  | .sbcAR r => [opXyz 2 3 r.code]
  | .sbcAN n => [0xDE#8, n]
  | .sbcAIndHl => [0x9E#8]
  | .sbcAIdx xy d => [xy.byte, 0x9E#8, d]
  | .andR r => [opXyz 2 4 r.code]
  | .andN n => [0xE6#8, n]
  | .andIndHl => [0xA6#8]
  | .andIdx xy d => [xy.byte, 0xA6#8, d]
  | .xorR r => [opXyz 2 5 r.code]
  | .xorN n => [0xEE#8, n]
  | .xorIndHl => [0xAE#8]
  | .xorIdx xy d => [xy.byte, 0xAE#8, d]
  | .orR r => [opXyz 2 6 r.code]
  | .orN n => [0xF6#8, n]
  | .orIndHl => [0xB6#8]
  | .orIdx xy d => [xy.byte, 0xB6#8, d]
  | .cpR r => [opXyz 2 7 r.code]
  | .cpN n => [0xFE#8, n]
  | .cpIndHl => [0xBE#8]
  | .cpIdx xy d => [xy.byte, 0xBE#8, d]
  | .incR r => [opXyz 0 r.code 4]
  | .incIndHl => [0x34#8]
  | .incIdx xy d => [xy.byte, 0x34#8, d]
  | .decR r => [opXyz 0 r.code 5]
  | .decIndHl => [0x35#8]
  | .decIdx xy d => [xy.byte, 0x35#8, d]
  | .daa => [0x27#8]
  | .cpl => [0x2F#8]
  | .neg => [0xED#8, 0x44#8]
  | .ccf => [0x3F#8]
  | .scf => [0x37#8]
  | .nop => [0x00#8]
  | .halt => [0x76#8]
  | .di => [0xF3#8]
  | .ei => [0xFB#8]
  | .im0 => [0xED#8, 0x46#8]
  | .im1 => [0xED#8, 0x56#8]
  | .im2 => [0xED#8, 0x5E#8]
  | .addHlSs ss => [opXpqz 0 ss.code 1 1]
  | .adcHlSs ss => [0xED#8, opXpqz 1 ss.code 1 2]
  | .sbcHlSs ss => [0xED#8, opXpqz 1 ss.code 0 2]
  | .addXyPp xy pp => [xy.byte, opXpqz 0 pp.code 1 1]
  | .incSs ss => [opXpqz 0 ss.code 0 3]
  | .incXy xy => [xy.byte, 0x23#8]
  | .decSs ss => [opXpqz 0 ss.code 1 3]
  | .decXy xy => [xy.byte, 0x2B#8]
  | .rlca => [0x07#8]
  | .rla => [0x17#8]
  | .rrca => [0x0F#8]
  | .rra => [0x1F#8]
  | .rlcR r => [0xCB#8, opXyz 0 0 r.code]
  | .rlcIndHl => [0xCB#8, 0x06#8]
  | .rlcIdx xy d => [xy.byte, 0xCB#8, d, 0x06#8]
  | .rrcR r => [0xCB#8, opXyz 0 1 r.code]
  | .rrcIndHl => [0xCB#8, 0x0E#8]
  | .rrcIdx xy d => [xy.byte, 0xCB#8, d, 0x0E#8]
  | .rlR r => [0xCB#8, opXyz 0 2 r.code]
  | .rlIndHl => [0xCB#8, 0x16#8]
  | .rlIdx xy d => [xy.byte, 0xCB#8, d, 0x16#8]
  | .rrR r => [0xCB#8, opXyz 0 3 r.code]
  | .rrIndHl => [0xCB#8, 0x1E#8]
  | .rrIdx xy d => [xy.byte, 0xCB#8, d, 0x1E#8]
  | .slaR r => [0xCB#8, opXyz 0 4 r.code]
  | .slaIndHl => [0xCB#8, 0x26#8]
  | .slaIdx xy d => [xy.byte, 0xCB#8, d, 0x26#8]
  | .sraR r => [0xCB#8, opXyz 0 5 r.code]
  | .sraIndHl => [0xCB#8, 0x2E#8]
  | .sraIdx xy d => [xy.byte, 0xCB#8, d, 0x2E#8]
  | .srlR r => [0xCB#8, opXyz 0 7 r.code]
  | .srlIndHl => [0xCB#8, 0x3E#8]
  | .srlIdx xy d => [xy.byte, 0xCB#8, d, 0x3E#8]
  | .rld => [0xED#8, 0x6F#8]
  | .rrd => [0xED#8, 0x67#8]
  | .bitR b r => [0xCB#8, opXyz 1 b.toNat r.code]
  | .bitIndHl b => [0xCB#8, opXyz 1 b.toNat 6]
  | .bitIdx b xy d => [xy.byte, 0xCB#8, d, opXyz 1 b.toNat 6]
  | .setR b r => [0xCB#8, opXyz 3 b.toNat r.code]
  | .setIndHl b => [0xCB#8, opXyz 3 b.toNat 6]
  | .setIdx b xy d => [xy.byte, 0xCB#8, d, opXyz 3 b.toNat 6]
  | .resR b r => [0xCB#8, opXyz 2 b.toNat r.code]
  | .resIndHl b => [0xCB#8, opXyz 2 b.toNat 6]
  | .resIdx b xy d => [xy.byte, 0xCB#8, d, opXyz 2 b.toNat 6]
  | .jpNn nn => [0xC3#8, lo8 nn, hi8 nn]
  | .jpCcNn cc nn => [opXyz 3 cc.code 2, lo8 nn, hi8 nn]
  | .jrE e => [0x18#8, e]
  | .jrCcE cc e => [opXyz 0 (4 + cc.code % 4) 0, e]
  | .jpIndHl => [0xE9#8]
  | .jpIndXy xy => [xy.byte, 0xE9#8]
  | .djnzE e => [0x10#8, e]
  | .callNn nn => [0xCD#8, lo8 nn, hi8 nn]
  | .callCcNn cc nn => [opXyz 3 cc.code 4, lo8 nn, hi8 nn]
  | .ret => [0xC9#8]
  | .reti => [0xED#8, 0x4D#8]
  | .retn => [0xED#8, 0x45#8]
  | .rstP p => [0xC7#8 ||| (p &&& 0x38#8)]
  | .retCc cc => [opXyz 3 cc.code 0]
  | .inAIndN n => [0xDB#8, n]
  | .inRIndC r => [0xED#8, opXyz 1 r.code 0]
  | .outIndNA n => [0xD3#8, n]
  | .outIndCR r => [0xED#8, opXyz 1 r.code 1]
  | .ini => [0xED#8, 0xA2#8]
  | .inir => [0xED#8, 0xB2#8]
  | .ind => [0xED#8, 0xAA#8]
  | .indr => [0xED#8, 0xBA#8]
  | .outi => [0xED#8, 0xA3#8]
  | .otir => [0xED#8, 0xB3#8]
  | .outd => [0xED#8, 0xAB#8]
  | .otdr => [0xED#8, 0xBB#8]

/-- The instruction's length in bytes, its first bytes and operands included (30_encoding.md R100). -/
def Instr.length (i : Instr) : Nat := (encode i).length

/-! ### Instructions as the opcode table numbers their bits -/

/-- The bytes of an instruction of `nbits` bits given as one number: spec/opcode_table.json writes the
first byte as the most significant one (its match for LD A,I, bytes ED 57, is 0xED57); the bytes after
them are 0. Log 11. -/
def tableBytes (nbits w : Nat) : List Byte :=
  (List.range 4).map fun k =>
    if 8 * (k + 1) ≤ nbits then BitVec.ofNat 8 (w >>> (nbits - 8 * (k + 1))) else 0#8

/-- The instruction the decoder reads from an instruction whose bits are `w`, numbered as
spec/opcode_table.json numbers them. -/
def decodeTableWord (nbits w : Nat) : Option Instr :=
  match decodeBytes (tableBytes nbits w) with
  | .ok i => some i
  | .error _ => none

end Sys2Proof
end

