-- ==== Sys2Proof/Config.lean ====
section
/-! DEFINITION. What an implementation fixes and what the spec leaves open: the parameters P_* of
00_scope.md R9 as plain data with their reference values, the value unwritten RAM reads as, and the
free values (opaque constants with no body, so that no proof can see them). -/

namespace Sys2Proof

/-- P_R_INC (10_state.md R31): when the refresh register counts. -/
inductive RInc where
  /-- Once per step, the default. -/
  | perInstruction
  /-- Once per opcode fetch: twice for a prefixed instruction. -/
  | perM1
  deriving DecidableEq, Repr

/-- P_ROM_OOB (20_memory.md R57) as plain data: the byte at an image offset beyond the image is the
one listed for that offset, else `dflt`. DESIGN CHOICE, safe (log 6): every value the parameter can
take on the offsets the decoder forms is one of these. -/
structure OobBytes where
  dflt  : Byte
  cells : List Host.Cell
  deriving DecidableEq, Repr

/-- The open parameters of 00_scope.md R9 that a step or a host call reads. P_RAM_INIT and P_CRAM_INIT
are arguments of `State.construct`; IoRead and draw() are the free values below. DESIGN CHOICE (log 5):
they stand in the state, so that a statement about every state holds for every value of them. -/
structure Params where
  clockHz        : Nat
  fps            : Nat
  romOob         : OobBytes
  resetClearsRam : Bool
  rInc           : RInc
  hasInterrupts  : Bool
  deriving DecidableEq, Repr

/-- The reference-simulator values of 00_scope.md R9. -/
def Params.reference : Params where
  clockHz        := 3579545
  fps            := 60
  romOob         := ⟨0x00#8, []⟩
  resetClearsRam := false
  rInc           := .perInstruction
  hasInterrupts  := false

/-- One I/O event (46_io.md R271): a byte read from a port, or a byte written to one. -/
inductive IoEvent where
  | read (port : Word) (value : Byte)
  | write (port : Word) (value : Byte)
  deriving DecidableEq, Repr

/-- What a cell of system RAM or cartridge RAM that nothing has written reads as: the reference value of
P_RAM_INIT and P_CRAM_INIT (00_scope.md R9). DESIGN CHOICE, unsafe (log 1). -/
def Config.unwritten : Byte := 0x00#8

/-- draw() (00_scope.md R19): the n-th value the spec leaves open, one bit. DESIGN CHOICE, safe (log 2):
an uninterpreted constant, so a claim holds whatever it is. -/
opaque Config.draw : Nat → Bool

/-- The parameter IoRead (46_io.md R271): the byte the oracle answers for a port after the earlier I/O
events. DESIGN CHOICE, safe (log 3): an uninterpreted constant. -/
opaque Config.ioRead : Word → List IoEvent → Byte

end Sys2Proof
end

