-- ==== Sys2Proof/Machine/State.lean ====
section
/-! DEFINITION. The state of the core as plain data (10_state.md), the outcomes' reasons, the state at
construction (10_state.md R43) and the state right after reset. -/

namespace Sys2Proof.Machine

open Sys2Proof

/-- The flag bits of F (10_state.md R27), bit 7 first. DESIGN CHOICE, safe (log 10): F is held as its
eight bits; `FlagReg.toByte` and `FlagReg.ofByte` are the byte PUSH AF and POP AF move. -/
structure FlagReg where
  /-- bit 7, Sign -/
  s  : Bool
  /-- bit 6, Zero -/
  z  : Bool
  /-- bit 5, no defined meaning (10_state.md R28) -/
  x5 : Bool
  /-- bit 4, Half-carry -/
  h  : Bool
  /-- bit 3, no defined meaning (10_state.md R28) -/
  x3 : Bool
  /-- bit 2, Parity/Overflow -/
  pv : Bool
  /-- bit 1, Subtract -/
  n  : Bool
  /-- bit 0, Carry -/
  c  : Bool
  deriving DecidableEq, Repr

/-- F = 0x00. -/
def FlagReg.zero : FlagReg := ⟨false, false, false, false, false, false, false, false⟩

/-- One set of the general registers (10_state.md R22, R23): the main one and the alternate one. -/
structure RegSet where
  a : Byte
  f : FlagReg
  b : Byte
  c : Byte
  d : Byte
  e : Byte
  h : Byte
  l : Byte
  deriving DecidableEq, Repr

/-- Every register of the set 0 (10_state.md R41). -/
def RegSet.zero : RegSet := ⟨0#8, FlagReg.zero, 0#8, 0#8, 0#8, 0#8, 0#8, 0#8⟩

/-- IM, the interrupt mode (10_state.md R33). -/
inductive IntMode where
  | mode0 | mode1 | mode2
  deriving DecidableEq, Repr

/-- The mapper variant (10_state.md R38). -/
inductive Variant where
  | standard | alternateChecksum
  deriving DecidableEq, Repr

/-- What the Unimplemented exception records (60_exceptions.md R284): the address of the first byte and
the bytes read so far. -/
structure Unimplemented where
  pc    : Word
  bytes : List Byte
  deriving DecidableEq, Repr

/-- A byte store: (address, byte) pairs, addresses rising, none holding `Config.unwritten`. -/
abbrev Memory := List Host.Cell

/-- The MemoryController's state (10_state.md R38). `cram` holds cell `cram[k][i]` under the address
k * 0x4000 + i. -/
structure MemCtl where
  image      : List Byte
  variant    : Variant
  ram        : Memory
  cram       : Memory
  /-- 0xFFFC, RAM-control in the Standard variant (10_state.md R39). -/
  top0       : Byte
  /-- 0xFFFD, page select of slot 0 in the Standard variant. -/
  top1       : Byte
  /-- 0xFFFE, page select of slot 1 in the Standard variant. -/
  top2       : Byte
  /-- 0xFFFF, page select of slot 2 in the Standard variant. -/
  top3       : Byte
  /-- Page selects of the AlternateChecksum variant (10_state.md R40). -/
  apage0     : Byte
  apage1     : Byte
  apage2     : Byte
  cartLoaded : Bool
  deriving DecidableEq, Repr

/-- The machine's state. The last three fields are the model's own (logs 2, 3, 4). -/
structure State where
  main       : RegSet
  alt        : RegSet
  ix         : Word
  iy         : Word
  sp         : Word
  pc         : Word
  regI       : Byte
  regR       : Byte
  iff1       : Bool
  iff2       : Bool
  im         : IntMode
  halted     : Bool
  fault      : Option Unimplemented
  lastCycles : Nat
  eiDelay    : Bool
  nmiPending : Bool
  intLine    : Bool
  intData    : Byte
  mc         : MemCtl
  cfg        : Params
  /-- How many values draw() has given: the argument of the next `Config.draw`. -/
  draws      : Nat
  /-- The host's answers to the next IoReads, the next one first. -/
  ioInput    : List Byte
  /-- The I/O events so far, oldest first. -/
  ioEvents   : List IoEvent
  deriving DecidableEq, Repr

/-- Why a step stops. -/
inductive Fault where
  /-- Raised by `step` on a machine whose `fault` is set: the spec's outcome Faulted, with no change of
  any state (60_exceptions.md R286). Safe: the spec gives this outcome, and the state stays as it is. -/
  | faulted (info : Unimplemented)
  deriving DecidableEq, Repr

/-- Why an instruction has no meaning here. -/
inductive Refusal where
  /-- Raised by an arm of `exec` for an instruction not modelled yet; no arm raises it now. Safe: the
  model stops. -/
  | notModelled (mnemonic : String)
  deriving DecidableEq, Repr

/-- The MemoryController at construction (10_state.md R43), before the reset: empty image, Standard, no
cartridge. -/
def MemCtl.construct (ram cram : Memory) : MemCtl where
  image      := []
  variant    := .standard
  ram        := ram
  cram       := cram
  top0       := 0x00#8
  top1       := 0x00#8
  top2       := 0x01#8
  top3       := 0x02#8
  apage0     := 0x00#8
  apage1     := 0x01#8
  apage2     := 0x02#8
  cartLoaded := false

/-- A constructed machine (10_state.md R43): the reset of R41 and R42 applied to an empty-image machine
whose RAM and cartridge RAM hold P_RAM_INIT and P_CRAM_INIT. The top cells need no argument: the reset
sets them. The values of `intLine` and `intData` are DESIGN CHOICE 0 (log 13); `draws`, `ioInput` and
`ioEvents` start empty (logs 2, 3, 4). -/
def State.construct (cfg : Params) (ramInit cramInit : Memory) : State where
  main       := RegSet.zero
  alt        := RegSet.zero
  ix         := 0x0000#16
  iy         := 0x0000#16
  sp         := 0xDFF0#16
  pc         := 0x0000#16
  regI       := 0x00#8
  regR       := 0x00#8
  iff1       := false
  iff2       := false
  im         := .mode0
  halted     := false
  fault      := none
  lastCycles := 0
  eiDelay    := false
  nmiPending := false
  intLine    := false
  intData    := 0x00#8
  mc         := if cfg.resetClearsRam then MemCtl.construct [] [] else MemCtl.construct ramInit cramInit
  cfg        := cfg
  draws      := 0
  ioInput    := []
  ioEvents   := []

/-- The machine right after construction and reset with the reference parameters (10_state.md R41-R43,
00_scope.md R9): no cartridge, RAM and cartridge RAM unwritten (log 1). -/
def State.reset : State := State.construct Params.reference [] []

end Sys2Proof.Machine
end

