-- ==== Sys2Proof/Machine/Mem.lean ====
section
/-! DEFINITION. Reading and writing a byte store in its canonical form: addresses strictly rising, no
cell holding what an unlisted address reads as. -/

namespace Sys2Proof.Machine

open Sys2Proof

/-- The byte listed for an address, or `dflt` where none is. -/
def lookupByte (dflt : Byte) (cells : List Host.Cell) (a : Nat) : Byte :=
  match cells with
  | [] => dflt
  | (k, v) :: rest => if k = a then v else lookupByte dflt rest a

/-- The byte of a store at an address: what was written last, else `Config.unwritten` (log 1). -/
def Memory.read (m : Memory) (a : Nat) : Byte := lookupByte Config.unwritten m a

/-- The store without a cell for an address. -/
def Memory.erase (m : Memory) (a : Nat) : Memory :=
  match m with
  | [] => []
  | (k, v) :: rest => if k = a then Memory.erase rest a else (k, v) :: Memory.erase rest a

/-- The store with the byte `v` listed at address `a`. -/
def Memory.insert (m : Memory) (a : Nat) (v : Byte) : Memory :=
  match m with
  | [] => [(a, v)]
  | (k, x) :: rest =>
    if a < k then (a, v) :: (k, x) :: rest
    else if a = k then (a, v) :: rest
    else (k, x) :: Memory.insert rest a v

/-- Writes one byte, keeping the canonical form. -/
def Memory.write (m : Memory) (a : Nat) (v : Byte) : Memory :=
  if v = Config.unwritten then Memory.erase m a else Memory.insert m a v

/-- Every listed address is above `lo` and they rise strictly; no cell holds `Config.unwritten`. -/
def Memory.wfAbove (lo : Nat) (m : Memory) : Bool :=
  match m with
  | [] => true
  | (k, v) :: rest => decide (lo ≤ k) && v != Config.unwritten && Memory.wfAbove (k + 1) rest

/-- The canonical form. -/
def Memory.wf (m : Memory) : Bool := Memory.wfAbove 0 m

/-- Every listed address lies below `n`. -/
def Memory.within (n : Nat) (m : Memory) : Bool := m.all fun c => decide (c.1 < n)

end Sys2Proof.Machine
end

