-- ==== Sys2Proof/Machine/Ops.lean ====
section
/-! DEFINITION. The named operations over registers, memory, stack and I/O, the refresh, and taking and
returning from an exception. Instruction meanings are written over these. -/

namespace Sys2Proof.Machine

open Sys2Proof

/-! ### Pairs of the register file (10_state.md R24) -/

/-- BC = {B, C}. -/
def RegSet.bc (r : RegSet) : Word := pack r.b r.c

/-- DE = {D, E}. -/
def RegSet.de (r : RegSet) : Word := pack r.d r.e

/-- HL = {H, L}. -/
def RegSet.hl (r : RegSet) : Word := pack r.h r.l

/-- Writing BC changes both halves. -/
def RegSet.setBc (r : RegSet) (w : Word) : RegSet := { r with b := hi8 w, c := lo8 w }

/-- Writing DE changes both halves. -/
def RegSet.setDe (r : RegSet) (w : Word) : RegSet := { r with d := hi8 w, e := lo8 w }

/-- Writing HL changes both halves. -/
def RegSet.setHl (r : RegSet) (w : Word) : RegSet := { r with h := hi8 w, l := lo8 w }

/-- The value of BC. -/
def State.bc (s : State) : Word := s.main.bc

/-- The value of DE. -/
def State.de (s : State) : Word := s.main.de

/-- The value of HL. -/
def State.hl (s : State) : Word := s.main.hl

def State.setBc (s : State) (w : Word) : State := { s with main := s.main.setBc w }

def State.setDe (s : State) (w : Word) : State := { s with main := s.main.setDe w }

def State.setHl (s : State) (w : Word) : State := { s with main := s.main.setHl w }

def State.setA (s : State) (v : Byte) : State := { s with main := { s.main with a := v } }

def State.setB (s : State) (v : Byte) : State := { s with main := { s.main with b := v } }

/-- F as a whole (10_state.md R22): only POP AF and EX AF,AF' write it so. -/
def State.setF (s : State) (f : FlagReg) : State := { s with main := { s.main with f := f } }

/-- The byte F (10_state.md R27): S is bit 7, C is bit 0. -/
def FlagReg.toByte (f : FlagReg) : Byte :=
  BitVec.ofBool f.s ++ BitVec.ofBool f.z ++ BitVec.ofBool f.x5 ++ BitVec.ofBool f.h ++
    BitVec.ofBool f.x3 ++ BitVec.ofBool f.pv ++ BitVec.ofBool f.n ++ BitVec.ofBool f.c

/-- The flags a byte gives F (10_state.md R27). -/
def FlagReg.ofByte (v : Byte) : FlagReg where
  s  := v.getLsbD 7
  z  := v.getLsbD 6
  x5 := v.getLsbD 5
  h  := v.getLsbD 4
  x3 := v.getLsbD 3
  pv := v.getLsbD 2
  n  := v.getLsbD 1
  c  := v.getLsbD 0

/-- AF = {A, F} (10_state.md R24). -/
def State.af (s : State) : Word := pack s.main.a s.main.f.toByte

/-- Writing AF writes A and all eight bits of F (41_load16_exchange_block.md R141). -/
def State.setAf (s : State) (w : Word) : State := (s.setA (hi8 w)).setF (FlagReg.ofByte (lo8 w))

/-! ### The address decoder (20_memory.md) -/

/-- `rom(off)` (20_memory.md R57): the image byte, or P_ROM_OOB beyond the image. -/
def State.rom (s : State) (off : Nat) : Byte :=
  match s.mc.image[off]? with
  | some v => v
  | none => lookupByte s.cfg.romOob.dflt s.cfg.romOob.cells off

/-- `pagemask` (20_memory.md R58). -/
def MemCtl.pageMask (m : MemCtl) : Byte := if 0x8000 < m.image.length then 0x3F#8 else 0x1F#8

/-- The stored page-select byte of slot k, k = 0, 1, 2 (20_memory.md R58). -/
def MemCtl.pageByte (m : MemCtl) (k : Nat) : Byte :=
  match m.variant, k with
  | .standard, 0 => m.top1
  | .standard, 1 => m.top2
  | .standard, _ => m.top3
  | .alternateChecksum, 0 => m.apage0
  | .alternateChecksum, 1 => m.apage1
  | .alternateChecksum, _ => m.apage2

/-- `page_sel(k)` (20_memory.md R58). -/
def MemCtl.pageSel (m : MemCtl) (k : Nat) : Nat := (m.pageByte k &&& m.pageMask).toNat

/-- `ram_enabled()` (20_memory.md R58). -/
def MemCtl.ramEnabled (m : MemCtl) : Bool :=
  match m.variant with
  | .standard => m.top0.getLsbD 3
  | .alternateChecksum => false

/-- `ram_bank()` (20_memory.md R58): bit 0 of RAM-control. -/
def MemCtl.ramBank (m : MemCtl) : Nat := (m.top0 &&& 0x01#8).toNat

/-- The cell behind a logical address: what the decoder of 20_memory.md R59 reads. -/
inductive Place where
  /-- An image offset. -/
  | rom (off : Nat)
  /-- A cartridge RAM cell, bank * 0x4000 + offset. -/
  | cram (i : Nat)
  /-- A system RAM cell. -/
  | ram (i : Nat)
  /-- A top cell, 0 to 3. -/
  | top (j : Nat)
  deriving DecidableEq, Repr

/-- The address decoder (20_memory.md R59, R70). -/
def MemCtl.place (m : MemCtl) (a : Word) : Place :=
  let n := a.toNat
  if n < 0xC000 then
    if m.variant = .standard ∧ n < 0x0400 then .rom n
    else if 0x8000 ≤ n ∧ m.ramEnabled then .cram (m.ramBank * 0x4000 + (n - 0x8000))
    else .rom (n % 0x4000 + m.pageSel (n / 0x4000) * 0x4000)
  else if n < 0xE000 then .ram (n - 0xC000)
  else if n < 0xFFFC then .ram (n - 0xE000)
  else .top (n - 0xFFFC)

/-- A top cell (10_state.md R38). -/
def MemCtl.topCell (m : MemCtl) (j : Nat) : Byte :=
  match j with
  | 0 => m.top0
  | 1 => m.top1
  | 2 => m.top2
  | _ => m.top3

/-- Writing a top cell. -/
def MemCtl.setTopCell (m : MemCtl) (j : Nat) (v : Byte) : MemCtl :=
  match j with
  | 0 => { m with top0 := v }
  | 1 => { m with top1 := v }
  | 2 => { m with top2 := v }
  | _ => { m with top3 := v }

/-- The byte a cell holds. -/
def State.readPlace (s : State) : Place → Byte
  | .rom off => s.rom off
  | .cram i => Memory.read s.mc.cram i
  | .ram i => Memory.read s.mc.ram i
  | .top j => s.mc.topCell j

/-- `MemRead(a, 1)` (20_memory.md R59). -/
def State.memRead (s : State) (a : Word) : Byte := s.readPlace (s.mc.place a)

/-- A write to slots 0 to 2 of the AlternateChecksum variant: a page select at the slot's base address,
nothing elsewhere (20_memory.md R61). -/
def MemCtl.writeAltSlot (m : MemCtl) (a : Word) (v : Byte) : MemCtl :=
  if a = 0x0000#16 then { m with apage0 := v }
  else if a = 0x4000#16 then { m with apage1 := v }
  else if a = 0x8000#16 then { m with apage2 := v }
  else m

/-- The MemoryController after `MemWrite(a, 1, v)` (20_memory.md R61): ROM is never modified. -/
def MemCtl.write (m : MemCtl) (a : Word) (v : Byte) : MemCtl :=
  match m.variant, m.place a with
  | .standard, .rom _ => m
  | .alternateChecksum, .rom _ => m.writeAltSlot a v
  | _, .cram i => { m with cram := Memory.write m.cram i v }
  | _, .ram i => { m with ram := Memory.write m.ram i v }
  | _, .top j => m.setTopCell j v

/-- `MemWrite(a, 1, v)` (20_memory.md R61). -/
def State.memWrite (s : State) (a : Word) (v : Byte) : State := { s with mc := s.mc.write a v }

/-- `MemRead(a, 2)` (00_scope.md R14): little-endian. -/
def State.memRead16 (s : State) (a : Word) : Word := pack (s.memRead (a + 1#16)) (s.memRead a)

/-- `MemWrite(a, 2, w)` (00_scope.md R14): the low byte first. -/
def State.memWrite16 (s : State) (a w : Word) : State :=
  (s.memWrite a (lo8 w)).memWrite (a + 1#16) (hi8 w)

/-! ### The stack -/

/-- `push16(w)` (41_load16_exchange_block.md R139): the high byte first. -/
def State.push16 (s : State) (w : Word) : State :=
  let s1 := { s with sp := s.sp - 1#16 }
  let s2 := s1.memWrite s1.sp (hi8 w)
  let s3 := { s2 with sp := s2.sp - 1#16 }
  s3.memWrite s3.sp (lo8 w)

/-- The word `pop16()` returns (41_load16_exchange_block.md R141): the low byte at SP. -/
def State.stackTop (s : State) : Word := pack (s.memRead (s.sp + 1#16)) (s.memRead s.sp)

/-- The state `pop16()` leaves (41_load16_exchange_block.md R141). -/
def State.dropTop (s : State) : State := { s with sp := s.sp + 2#16 }

/-! ### The end of an instruction (30_encoding.md R104, R105) -/

/-- The instruction leaves `pc = PC + len` and costs `cycles`. -/
def State.advance (s : State) (len : Word) (cycles : Nat) : State :=
  { s with pc := s.pc + len, lastCycles := cycles }

/-- The instruction leaves `pc = target` and costs `cycles`. -/
def State.goto (s : State) (target : Word) (cycles : Nat) : State :=
  { s with pc := target, lastCycles := cycles }

/-- The end of one iteration of a repeating block instruction (30_encoding.md R105): it repeats at PC and
costs 21, or is done, 2 bytes on, and costs 16. -/
def State.endIteration (s : State) (again : Bool) : State :=
  if again then s.goto s.pc 21 else s.advance 2#16 16

/-! ### The I/O port space (46_io.md R271) -/

/-- The byte `IoRead(port)` returns: the host's next answer, else the oracle's (log 3). -/
def State.ioAnswer (s : State) (port : Word) : Byte :=
  match s.ioInput with
  | v :: _ => v
  | [] => Config.ioRead port s.ioEvents

/-- The state after `IoRead(port)`: the answer is used up and the event recorded (logs 3, 4). -/
def State.ioRead (s : State) (port : Word) : State :=
  { s with ioInput := s.ioInput.tail, ioEvents := s.ioEvents ++ [.read port (s.ioAnswer port)] }

/-- `IoWrite(port, v)`: emits the event (port, v) and changes no state of the core. -/
def State.ioWrite (s : State) (port : Word) (v : Byte) : State :=
  { s with ioEvents := s.ioEvents ++ [.write port v] }

/-! ### The refresh register -/

/-- `refresh()` (10_state.md R31): the low 7 bits count, bit 7 stays. -/
def State.refresh (s : State) : State :=
  { s with regR := (s.regR &&& 0x80#8) ||| ((s.regR + 1#8) &&& 0x7F#8) }

/-! ### Exceptions (60_exceptions.md) -/

/-- `raise Unimplemented(pc, bytes)` (60_exceptions.md R285): `fault` and `last_cycles` are written, PC
and everything else stay. -/
def State.raiseUnimplemented (s : State) (pc : Word) (bytes : List Byte) : State :=
  { s with fault := some ⟨pc, bytes⟩, lastCycles := 0 }

/-- What every interrupt acceptance does (60_exceptions.md R289-R291, R294): the refresh, the wake-up from
HALT, IFF1 cleared. -/
def State.beginAcceptance (s : State) : State := { s.refresh with halted := false, iff1 := false }

/-- Taking an interrupt (60_exceptions.md R294): PC is pushed, execution goes on at the handler. -/
def State.enterHandler (s : State) (handler : Word) (cycles : Nat) : State :=
  (s.push16 s.pc).goto handler cycles

/-- NMI acceptance (60_exceptions.md R289); `ei_delay` is cleared at the end of the step (R287, log 8). -/
def State.acceptNmi (s : State) : State :=
  { s.beginAcceptance with nmiPending := false, eiDelay := false }.enterHandler 0x0066#16 11

/-- Is the byte an RST opcode 11ttt111 (60_exceptions.md R290)? -/
def isRst (v : Byte) : Bool := v &&& 0xC7#8 == 0xC7#8

/-- The handler address of mode 2 (60_exceptions.md R291), read after PC has been pushed. -/
def State.vectorTarget (s : State) : Word := s.memRead16 (pack s.regI s.intData)

/-- Maskable acceptance by interrupt mode (60_exceptions.md R290, R291). Mode 0 with a byte that is no
RST raises Unimplemented after the acceptance's first line (log 9). -/
def State.acceptInt (s : State) : State :=
  let t := { s.beginAcceptance with iff2 := false }
  match s.im with
  | .mode0 =>
    if isRst s.intData then t.enterHandler ((s.intData &&& 0x38#8).setWidth 16) 13
    else t.raiseUnimplemented s.pc [s.intData]
  | .mode1 => t.enterHandler 0x0038#16 13
  | .mode2 =>
    let u := t.push16 t.pc
    u.goto u.vectorTarget 19

/-- Which interrupt a step accepts. -/
inductive Acceptance where
  | none | nmi | maskable
  deriving DecidableEq, Repr

/-- `accept()` (60_exceptions.md R288): NMI first, then the maskable interrupt. -/
def State.acceptance (s : State) : Acceptance :=
  if s.cfg.hasInterrupts then
    if s.nmiPending then .nmi
    else if s.intLine && s.iff1 && !s.eiDelay then .maskable
    else .none
  else .none

/-- The return from an interrupt, RETI and RETN (60_exceptions.md R296): PC is popped and IFF1 takes
IFF2. -/
def State.returnFromInterrupt (s : State) (cycles : Nat) : State :=
  { s.dropTop with iff1 := s.iff2 }.goto s.stackTop cycles

end Sys2Proof.Machine
end

