-- ==== Sys2Proof/Machine/Flags.lean ====
section
/-! DEFINITION. The results and flags of the arithmetic, logic, rotate and bit operations
(42_alu8_control.md, 43_alu16.md, 44_rotate_bit.md), and writing F with its drawn bits (10_state.md R28). -/

namespace Sys2Proof.Machine

open Sys2Proof

/-! ### Writing F -/

/-- The k-th draw() from here (00_scope.md R19, log 2). -/
def State.drawn (s : State) (k : Nat) : Bool := Config.draw (s.draws + k)

/-- `k` draws are used up. -/
def State.useDraws (s : State) (k : Nat) : State := { s with draws := s.draws + k }

/-- Writes the flags an instruction names and draws X3, then X5 (10_state.md R28, 00_scope.md R19). -/
def State.writeFlags (s : State) (f : FlagReg) : State :=
  (s.setF { f with x3 := s.drawn 0, x5 := s.drawn 1 }).useDraws 2

/-! ### Results -/

/-- `parity(v)` (00_scope.md R18): an even number of 1 bits. -/
def parity (v : Byte) : Bool :=
  !(v.getLsbD 0 ^^ v.getLsbD 1 ^^ v.getLsbD 2 ^^ v.getLsbD 3 ^^
    v.getLsbD 4 ^^ v.getLsbD 5 ^^ v.getLsbD 6 ^^ v.getLsbD 7)

/-- `sz(v)` (00_scope.md R18). -/
def FlagReg.sz (f : FlagReg) (v : Byte) : FlagReg := { f with s := v.getLsbD 7, z := v == 0#8 }

/-- `sz16(w)` (00_scope.md R18). -/
def FlagReg.sz16 (f : FlagReg) (w : Word) : FlagReg := { f with s := w.getLsbD 15, z := w == 0#16 }

/-! ### 8-bit addition and subtraction -/

/-- The result of `add8` (42_alu8_control.md R156). -/
def add8 (a b : Byte) (cin : Bool) : Byte := BitVec.ofNat 8 (a.toNat + b.toNat + cin.toNat)

/-- The flags of `add8` (42_alu8_control.md R156). -/
def FlagReg.add8 (f : FlagReg) (a b : Byte) (cin : Bool) : FlagReg :=
  let res := Machine.add8 a b cin
  { f.sz res with
    h  := decide (0x0F < a.toNat % 16 + b.toNat % 16 + cin.toNat)
    pv := a.getLsbD 7 == b.getLsbD 7 && res.getLsbD 7 != a.getLsbD 7
    n  := false
    c  := decide (0xFF < a.toNat + b.toNat + cin.toNat) }

/-- The result of `sub8` (42_alu8_control.md R157). -/
def sub8 (a b : Byte) (cin : Bool) : Byte :=
  BitVec.ofInt 8 ((a.toNat : Int) - (b.toNat : Int) - (cin.toNat : Int))

/-- The flags of `sub8` (42_alu8_control.md R157). -/
def FlagReg.sub8 (f : FlagReg) (a b : Byte) (cin : Bool) : FlagReg :=
  let res := Machine.sub8 a b cin
  { f.sz res with
    h  := decide (a.toNat % 16 < b.toNat % 16 + cin.toNat)
    pv := a.getLsbD 7 != b.getLsbD 7 && res.getLsbD 7 != a.getLsbD 7
    n  := true
    c  := decide ((a.toNat : Int) - (b.toNat : Int) - (cin.toNat : Int) < 0) }

/-- The logic flags (42_alu8_control.md R158): `h` is 1 for AND, else 0. -/
def FlagReg.logic (f : FlagReg) (res : Byte) (h : Bool) : FlagReg :=
  { f.sz res with h := h, pv := parity res, n := false, c := false }

/-- The flags of `inc8` (42_alu8_control.md R160); C is unchanged. -/
def FlagReg.inc8 (f : FlagReg) (v : Byte) : FlagReg :=
  { f.sz (v + 1#8) with n := false, pv := v == 0x7F#8, h := v &&& 0x0F#8 == 0x0F#8 }

/-- The flags of `dec8` (42_alu8_control.md R161); C is unchanged. -/
def FlagReg.dec8 (f : FlagReg) (v : Byte) : FlagReg :=
  { f.sz (v - 1#8) with n := true, pv := v == 0x80#8, h := v &&& 0x0F#8 == 0x00#8 }

/-! ### DAA (42_alu8_control.md R201) -/

/-- The correction `diff`. -/
def daaDiff (f : FlagReg) (a : Byte) : Byte :=
  (if f.h || decide (9 < a.toNat % 16) then 0x06#8 else 0#8) |||
    (if f.c || decide (0x99 < a.toNat) then 0x60#8 else 0#8)

/-- The adjusted accumulator. -/
def daa (f : FlagReg) (a : Byte) : Byte := if f.n then a - daaDiff f a else a + daaDiff f a

/-- The flags DAA leaves; N is unchanged. -/
def FlagReg.daa (f : FlagReg) (a : Byte) : FlagReg :=
  { f.sz (Machine.daa f a) with
    h  := if f.n then f.h && decide (a.toNat % 16 < 6) else decide (9 < a.toNat % 16)
    pv := parity (Machine.daa f a)
    c  := f.c || decide (0x99 < a.toNat) }

/-! ### 16-bit addition and subtraction (43_alu16.md) -/

/-- `mod16(x + w + cin)`. -/
def add16 (x w : Word) (cin : Bool) : Word := BitVec.ofNat 16 (x.toNat + w.toNat + cin.toNat)

/-- The flags of ADD HL,ss and ADD xy,pp (43_alu16.md R213): S, Z, PV unchanged. -/
def FlagReg.add16 (f : FlagReg) (x w : Word) : FlagReg :=
  { f with
    n := false
    h := decide (0x0FFF < x.toNat % 0x1000 + w.toNat % 0x1000)
    c := decide (0xFFFF < x.toNat + w.toNat) }

/-- The flags of ADC HL,ss (43_alu16.md R214). -/
def FlagReg.adc16 (f : FlagReg) (x w : Word) (cin : Bool) : FlagReg :=
  let res := Machine.add16 x w cin
  { f.sz16 res with
    h  := decide (0x0FFF < x.toNat % 0x1000 + w.toNat % 0x1000 + cin.toNat)
    pv := x.getLsbD 15 == w.getLsbD 15 && res.getLsbD 15 != x.getLsbD 15
    n  := false
    c  := decide (0xFFFF < x.toNat + w.toNat + cin.toNat) }

/-- `mod16(x - w - cin)`. -/
def sub16 (x w : Word) (cin : Bool) : Word :=
  BitVec.ofInt 16 ((x.toNat : Int) - (w.toNat : Int) - (cin.toNat : Int))

/-- The flags of SBC HL,ss (43_alu16.md R215). -/
def FlagReg.sbc16 (f : FlagReg) (x w : Word) (cin : Bool) : FlagReg :=
  let res := Machine.sub16 x w cin
  { f.sz16 res with
    h  := decide (x.toNat % 0x1000 < w.toNat % 0x1000 + cin.toNat)
    pv := x.getLsbD 15 != w.getLsbD 15 && res.getLsbD 15 != x.getLsbD 15
    n  := true
    c  := decide ((x.toNat : Int) - (w.toNat : Int) - (cin.toNat : Int) < 0) }

/-! ### Rotates and shifts (44_rotate_bit.md): the result and the bit moved out, with the old carry
`cin` -/

/-- A rotate or shift: (result, carry out) of an operand and the old carry. -/
abbrev Rotate := Byte → Bool → Byte × Bool

/-- A single bit as bit 0 of a byte. -/
def lowBit (c : Bool) : Byte := (BitVec.ofBool c).setWidth 8

/-- RLC (44_rotate_bit.md R225). -/
def rlc : Rotate := fun v _ => ((v <<< 1) ||| lowBit (v.getLsbD 7), v.getLsbD 7)

/-- RRC (44_rotate_bit.md R228). -/
def rrc : Rotate := fun v _ => ((v >>> 1) ||| (lowBit (v.getLsbD 0) <<< 7), v.getLsbD 0)

/-- RL (44_rotate_bit.md R231). -/
def rl : Rotate := fun v cin => ((v <<< 1) ||| lowBit cin, v.getLsbD 7)

/-- RR (44_rotate_bit.md R234). -/
def rr : Rotate := fun v cin => ((v >>> 1) ||| (lowBit cin <<< 7), v.getLsbD 0)

/-- SLA (44_rotate_bit.md R237). -/
def sla : Rotate := fun v _ => (v <<< 1, v.getLsbD 7)

/-- SRA (44_rotate_bit.md R240). -/
def sra : Rotate := fun v _ => ((v >>> 1) ||| (v &&& 0x80#8), v.getLsbD 0)

/-- SRL (44_rotate_bit.md R243). -/
def srl : Rotate := fun v _ => (v >>> 1, v.getLsbD 0)

/-- The flags of the CB rotates and shifts (44_rotate_bit.md section 2). -/
def FlagReg.rotate (f : FlagReg) (res : Byte) (c : Bool) : FlagReg :=
  { f.sz res with h := false, pv := parity res, n := false, c := c }

/-- The flags of RLCA, RLA, RRCA, RRA (44_rotate_bit.md R221-R224): S, Z, PV unchanged. -/
def FlagReg.rotateA (f : FlagReg) (c : Bool) : FlagReg := { f with h := false, n := false, c := c }

/-- S, Z from a value, PV its parity, H and N clear, C unchanged: RLD, RRD and IN r,(C)
(44_rotate_bit.md R246, 46_io.md R273). -/
def FlagReg.szp (f : FlagReg) (v : Byte) : FlagReg := { f.sz v with h := false, pv := parity v, n := false }

/-! ### Flags of the block and special loads -/

/-- LD A,I and LD A,R (40_load8.md R124): PV takes IFF2. -/
def FlagReg.special (f : FlagReg) (v : Byte) (iff2 : Bool) : FlagReg :=
  { f.sz v with h := false, pv := iff2, n := false }

/-- LDI and its kin (41_load16_exchange_block.md R148), `bc` the new BC. -/
def FlagReg.blockLoad (f : FlagReg) (bc : Word) : FlagReg := { f with h := false, pv := bc != 0#16, n := false }

/-- CPI and its kin (41_load16_exchange_block.md R152), `bc` the new BC. -/
def FlagReg.blockCompare (f : FlagReg) (a v : Byte) (bc : Word) : FlagReg :=
  { f.sz (a - v) with h := decide (a.toNat % 16 < v.toNat % 16), pv := bc != 0#16, n := true }

end Sys2Proof.Machine
end

