-- ==== Sys2Proof/Machine/Operands.lean ====
section
/-! DEFINITION. The operand forms: registers, pairs, index registers, indexed addresses, conditions and
branch targets (30_encoding.md R81, R82, R89-R91). -/

namespace Sys2Proof.Machine

open Sys2Proof

/-- `R8[r]` (30_encoding.md R89). -/
def State.reg8 (s : State) : Reg8 → Byte
  | .b => s.main.b
  | .c => s.main.c
  | .d => s.main.d
  | .e => s.main.e
  | .h => s.main.h
  | .l => s.main.l
  | .a => s.main.a

/-- `R8[r] <- v`. -/
def State.setReg8 (s : State) (r : Reg8) (v : Byte) : State :=
  match r with
  | .b => { s with main := { s.main with b := v } }
  | .c => { s with main := { s.main with c := v } }
  | .d => { s with main := { s.main with d := v } }
  | .e => { s with main := { s.main with e := v } }
  | .h => { s with main := { s.main with h := v } }
  | .l => { s with main := { s.main with l := v } }
  | .a => { s with main := { s.main with a := v } }

/-- `R16dd[dd]` (30_encoding.md R90). -/
def State.pair (s : State) : Pair → Word
  | .bc => s.bc
  | .de => s.de
  | .hl => s.hl
  | .sp => s.sp

/-- `R16dd[dd] <- w`. -/
def State.setPair (s : State) (dd : Pair) (w : Word) : State :=
  match dd with
  | .bc => s.setBc w
  | .de => s.setDe w
  | .hl => s.setHl w
  | .sp => { s with sp := w }

/-- `R16qq[qq]` (30_encoding.md R90). -/
def State.stackPair (s : State) : StackPair → Word
  | .bc => s.bc
  | .de => s.de
  | .hl => s.hl
  | .af => s.af

/-- `R16qq[qq] <- w`; AF takes all eight bits of F (41_load16_exchange_block.md R141). -/
def State.setStackPair (s : State) (qq : StackPair) (w : Word) : State :=
  match qq with
  | .bc => s.setBc w
  | .de => s.setDe w
  | .hl => s.setHl w
  | .af => s.setAf w

/-- IX or IY. -/
def State.idx (s : State) : IdxReg → Word
  | .ix => s.ix
  | .iy => s.iy

/-- `xy <- w`. -/
def State.setIdx (s : State) (xy : IdxReg) (w : Word) : State :=
  match xy with
  | .ix => { s with ix := w }
  | .iy => { s with iy := w }

/-- The pp / rr operand (30_encoding.md R90): code 10 is the index register itself. -/
def State.idxPair (s : State) (xy : IdxReg) : IdxPair → Word
  | .bc => s.bc
  | .de => s.de
  | .xy => s.idx xy
  | .sp => s.sp

/-- `ea = mod16(xy + signed8(d))` (30_encoding.md R82). -/
def State.idxAddr (s : State) (xy : IdxReg) (d : Byte) : Word := s.idx xy + sext16 d

/-- `cond(cc)` (30_encoding.md R91). -/
def FlagReg.cond (f : FlagReg) : Cond → Bool
  | .nz => !f.z
  | .z => f.z
  | .nc => !f.c
  | .c => f.c
  | .po => !f.pv
  | .pe => f.pv
  | .p => !f.s
  | .m => f.s

/-- `cond(cc)` on the machine's F. -/
def State.cond (s : State) (cc : Cond) : Bool := s.main.f.cond cc

/-- The target of a relative branch, `mod16(PC + 2 + signed8(e))` (30_encoding.md R81;
90_conflicts.md C1). -/
def State.relTarget (s : State) (e : Byte) : Word := s.pc + 2#16 + sext16 e

end Sys2Proof.Machine
end

