-- ==== Sys2Proof/Machine/Alu16.lean ====
section
/-! DEFINITION. 16-bit arithmetic (43_alu16.md). -/

namespace Sys2Proof.Machine

open Sys2Proof

/-- `ADD HL,ss` (43_alu16.md R213). -/
def execAddHlSs (ss : Pair) (s : State) : Host.Outcome State Fault Refusal :=
  .next (((s.setHl (add16 s.hl (s.pair ss) false)).writeFlags (s.main.f.add16 s.hl (s.pair ss))).advance 1#16 11)

/-- `ADC HL,ss` (43_alu16.md R214). -/
def execAdcHlSs (ss : Pair) (s : State) : Host.Outcome State Fault Refusal :=
  .next (((s.setHl (add16 s.hl (s.pair ss) s.main.f.c)).writeFlags
    (s.main.f.adc16 s.hl (s.pair ss) s.main.f.c)).advance 2#16 15)

/-- `SBC HL,ss` (43_alu16.md R215). -/
def execSbcHlSs (ss : Pair) (s : State) : Host.Outcome State Fault Refusal :=
  .next (((s.setHl (sub16 s.hl (s.pair ss) s.main.f.c)).writeFlags
    (s.main.f.sbc16 s.hl (s.pair ss) s.main.f.c)).advance 2#16 15)

/-- `ADD xy,pp` (43_alu16.md R216). -/
def execAddXyPp (xy : IdxReg) (pp : IdxPair) (s : State) : Host.Outcome State Fault Refusal :=
  .next (((s.setIdx xy (add16 (s.idx xy) (s.idxPair xy pp) false)).writeFlags
    (s.main.f.add16 (s.idx xy) (s.idxPair xy pp))).advance 2#16 15)

/-- `INC ss` (43_alu16.md R217). -/
def execIncSs (ss : Pair) (s : State) : Host.Outcome State Fault Refusal :=
  .next ((s.setPair ss (s.pair ss + 1#16)).advance 1#16 6)

/-- `INC xy` (43_alu16.md R218). -/
def execIncXy (xy : IdxReg) (s : State) : Host.Outcome State Fault Refusal :=
  .next ((s.setIdx xy (s.idx xy + 1#16)).advance 2#16 10)

/-- `DEC ss` (43_alu16.md R219). -/
def execDecSs (ss : Pair) (s : State) : Host.Outcome State Fault Refusal :=
  .next ((s.setPair ss (s.pair ss - 1#16)).advance 1#16 6)

/-- `DEC xy` (43_alu16.md R220). -/
def execDecXy (xy : IdxReg) (s : State) : Host.Outcome State Fault Refusal :=
  .next ((s.setIdx xy (s.idx xy - 1#16)).advance 2#16 10)

end Sys2Proof.Machine
end

