-- ==== Sys2Proof/Machine/Alu8.lean ====
section
/-! DEFINITION. 8-bit arithmetic and logic on A, increment and decrement (42_alu8_control.md R156-R200). -/

namespace Sys2Proof.Machine

open Sys2Proof

/-! ### The eight operations on A (42_alu8_control.md R156-R159) -/

/-- ADD and ADC: A takes the sum, F its flags. -/
def State.aluAdd (s : State) (v : Byte) (cin : Bool) : State :=
  (s.setA (add8 s.main.a v cin)).writeFlags (s.main.f.add8 s.main.a v cin)

/-- SUB and SBC: A takes the difference, F its flags. -/
def State.aluSub (s : State) (v : Byte) (cin : Bool) : State :=
  (s.setA (sub8 s.main.a v cin)).writeFlags (s.main.f.sub8 s.main.a v cin)

/-- AND, XOR, OR: A takes the result, F the logic flags with the given H. -/
def State.aluLogic (s : State) (res : Byte) (h : Bool) : State :=
  (s.setA res).writeFlags (s.main.f.logic res h)

/-- CP: the flags of SUB, A unchanged (42_alu8_control.md R159). -/
def State.aluCp (s : State) (v : Byte) : State := s.writeFlags (s.main.f.sub8 s.main.a v false)

/-- `ADD A,r` (42_alu8_control.md R163). -/
def execAddAR (r : Reg8) (s : State) : Host.Outcome State Fault Refusal :=
  .next ((s.aluAdd (s.reg8 r) false).advance 1#16 4)

/-- `ADD A,n` (42_alu8_control.md R164). -/
def execAddAN (n : Byte) (s : State) : Host.Outcome State Fault Refusal :=
  .next ((s.aluAdd n false).advance 2#16 7)

/-- `ADD A,(HL)` (42_alu8_control.md R165). -/
def execAddAIndHl (s : State) : Host.Outcome State Fault Refusal :=
  .next ((s.aluAdd (s.memRead s.hl) false).advance 1#16 7)

/-- `ADD A,(xy+d)` (42_alu8_control.md R166). -/
def execAddAIdx (xy : IdxReg) (d : Byte) (s : State) : Host.Outcome State Fault Refusal :=
  .next ((s.aluAdd (s.memRead (s.idxAddr xy d)) false).advance 3#16 19)

/-- `ADC A,r` (42_alu8_control.md R167). -/
def execAdcAR (r : Reg8) (s : State) : Host.Outcome State Fault Refusal :=
  .next ((s.aluAdd (s.reg8 r) s.main.f.c).advance 1#16 4)

/-- `ADC A,n` (42_alu8_control.md R168). -/
def execAdcAN (n : Byte) (s : State) : Host.Outcome State Fault Refusal :=
  .next ((s.aluAdd n s.main.f.c).advance 2#16 7)

/-- `ADC A,(HL)` (42_alu8_control.md R169). -/
def execAdcAIndHl (s : State) : Host.Outcome State Fault Refusal :=
  .next ((s.aluAdd (s.memRead s.hl) s.main.f.c).advance 1#16 7)

/-- `ADC A,(xy+d)` (42_alu8_control.md R170). -/
def execAdcAIdx (xy : IdxReg) (d : Byte) (s : State) : Host.Outcome State Fault Refusal :=
  .next ((s.aluAdd (s.memRead (s.idxAddr xy d)) s.main.f.c).advance 3#16 19)

/-- `SUB r` (42_alu8_control.md R171). -/
def execSubR (r : Reg8) (s : State) : Host.Outcome State Fault Refusal :=
  .next ((s.aluSub (s.reg8 r) false).advance 1#16 4)

/-- `SUB n` (42_alu8_control.md R172). -/
def execSubN (n : Byte) (s : State) : Host.Outcome State Fault Refusal :=
  .next ((s.aluSub n false).advance 2#16 7)

/-- `SUB (HL)` (42_alu8_control.md R173). -/
def execSubIndHl (s : State) : Host.Outcome State Fault Refusal :=
  .next ((s.aluSub (s.memRead s.hl) false).advance 1#16 7)

/-- `SUB (xy+d)` (42_alu8_control.md R174). -/
def execSubIdx (xy : IdxReg) (d : Byte) (s : State) : Host.Outcome State Fault Refusal :=
  .next ((s.aluSub (s.memRead (s.idxAddr xy d)) false).advance 3#16 19)

/-- `SBC A,r` (42_alu8_control.md R175). -/
def execSbcAR (r : Reg8) (s : State) : Host.Outcome State Fault Refusal :=
  .next ((s.aluSub (s.reg8 r) s.main.f.c).advance 1#16 4)

/-- `SBC A,n` (42_alu8_control.md R176). -/
def execSbcAN (n : Byte) (s : State) : Host.Outcome State Fault Refusal :=
  .next ((s.aluSub n s.main.f.c).advance 2#16 7)

/-- `SBC A,(HL)` (42_alu8_control.md R177). -/
def execSbcAIndHl (s : State) : Host.Outcome State Fault Refusal :=
  .next ((s.aluSub (s.memRead s.hl) s.main.f.c).advance 1#16 7)

/-- `SBC A,(xy+d)` (42_alu8_control.md R178). -/
def execSbcAIdx (xy : IdxReg) (d : Byte) (s : State) : Host.Outcome State Fault Refusal :=
  .next ((s.aluSub (s.memRead (s.idxAddr xy d)) s.main.f.c).advance 3#16 19)

/-- `AND r` (42_alu8_control.md R179). -/
def execAndR (r : Reg8) (s : State) : Host.Outcome State Fault Refusal :=
  .next ((s.aluLogic (s.main.a &&& (s.reg8 r)) true).advance 1#16 4)

/-- `AND n` (42_alu8_control.md R180). -/
def execAndN (n : Byte) (s : State) : Host.Outcome State Fault Refusal :=
  .next ((s.aluLogic (s.main.a &&& n) true).advance 2#16 7)

/-- `AND (HL)` (42_alu8_control.md R181). -/
def execAndIndHl (s : State) : Host.Outcome State Fault Refusal :=
  .next ((s.aluLogic (s.main.a &&& (s.memRead s.hl)) true).advance 1#16 7)

/-- `AND (xy+d)` (42_alu8_control.md R182). -/
def execAndIdx (xy : IdxReg) (d : Byte) (s : State) : Host.Outcome State Fault Refusal :=
  .next ((s.aluLogic (s.main.a &&& (s.memRead (s.idxAddr xy d))) true).advance 3#16 19)

/-- `XOR r` (42_alu8_control.md R183). -/
def execXorR (r : Reg8) (s : State) : Host.Outcome State Fault Refusal :=
  .next ((s.aluLogic (s.main.a ^^^ (s.reg8 r)) false).advance 1#16 4)

/-- `XOR n` (42_alu8_control.md R184). -/
def execXorN (n : Byte) (s : State) : Host.Outcome State Fault Refusal :=
  .next ((s.aluLogic (s.main.a ^^^ n) false).advance 2#16 7)

/-- `XOR (HL)` (42_alu8_control.md R185). -/
def execXorIndHl (s : State) : Host.Outcome State Fault Refusal :=
  .next ((s.aluLogic (s.main.a ^^^ (s.memRead s.hl)) false).advance 1#16 7)

/-- `XOR (xy+d)` (42_alu8_control.md R186). -/
def execXorIdx (xy : IdxReg) (d : Byte) (s : State) : Host.Outcome State Fault Refusal :=
  .next ((s.aluLogic (s.main.a ^^^ (s.memRead (s.idxAddr xy d))) false).advance 3#16 19)

/-- `OR r` (42_alu8_control.md R187). -/
def execOrR (r : Reg8) (s : State) : Host.Outcome State Fault Refusal :=
  .next ((s.aluLogic (s.main.a ||| (s.reg8 r)) false).advance 1#16 4)

/-- `OR n` (42_alu8_control.md R188). -/
def execOrN (n : Byte) (s : State) : Host.Outcome State Fault Refusal :=
  .next ((s.aluLogic (s.main.a ||| n) false).advance 2#16 7)

/-- `OR (HL)` (42_alu8_control.md R189). -/
def execOrIndHl (s : State) : Host.Outcome State Fault Refusal :=
  .next ((s.aluLogic (s.main.a ||| (s.memRead s.hl)) false).advance 1#16 7)

/-- `OR (xy+d)` (42_alu8_control.md R190). -/
def execOrIdx (xy : IdxReg) (d : Byte) (s : State) : Host.Outcome State Fault Refusal :=
  .next ((s.aluLogic (s.main.a ||| (s.memRead (s.idxAddr xy d))) false).advance 3#16 19)

/-- `CP r` (42_alu8_control.md R191). -/
def execCpR (r : Reg8) (s : State) : Host.Outcome State Fault Refusal :=
  .next ((s.aluCp (s.reg8 r)).advance 1#16 4)

/-- `CP n` (42_alu8_control.md R192). -/
def execCpN (n : Byte) (s : State) : Host.Outcome State Fault Refusal :=
  .next ((s.aluCp n).advance 2#16 7)

/-- `CP (HL)` (42_alu8_control.md R193). -/
def execCpIndHl (s : State) : Host.Outcome State Fault Refusal :=
  .next ((s.aluCp (s.memRead s.hl)).advance 1#16 7)

/-- `CP (xy+d)` (42_alu8_control.md R194). -/
def execCpIdx (xy : IdxReg) (d : Byte) (s : State) : Host.Outcome State Fault Refusal :=
  .next ((s.aluCp (s.memRead (s.idxAddr xy d))).advance 3#16 19)

/-! ### Increment and decrement (42_alu8_control.md R160, R161) -/

/-- INC of the byte at an address: the write may be ignored, the flags are those of the byte read. -/
def State.incByte (s : State) (a : Word) : State :=
  (s.memWrite a (s.memRead a + 1#8)).writeFlags (s.main.f.inc8 (s.memRead a))

/-- DEC of the byte at an address. -/
def State.decByte (s : State) (a : Word) : State :=
  (s.memWrite a (s.memRead a - 1#8)).writeFlags (s.main.f.dec8 (s.memRead a))

/-- `INC r` (42_alu8_control.md R195). -/
def execIncR (r : Reg8) (s : State) : Host.Outcome State Fault Refusal :=
  .next (((s.setReg8 r (s.reg8 r + 1#8)).writeFlags (s.main.f.inc8 (s.reg8 r))).advance 1#16 4)

/-- `INC (HL)` (42_alu8_control.md R196). -/
def execIncIndHl (s : State) : Host.Outcome State Fault Refusal :=
  .next ((s.incByte s.hl).advance 1#16 11)

/-- `INC (xy+d)` (42_alu8_control.md R197). -/
def execIncIdx (xy : IdxReg) (d : Byte) (s : State) : Host.Outcome State Fault Refusal :=
  .next ((s.incByte (s.idxAddr xy d)).advance 3#16 23)

/-- `DEC r` (42_alu8_control.md R198). -/
def execDecR (r : Reg8) (s : State) : Host.Outcome State Fault Refusal :=
  .next (((s.setReg8 r (s.reg8 r - 1#8)).writeFlags (s.main.f.dec8 (s.reg8 r))).advance 1#16 4)

/-- `DEC (HL)` (42_alu8_control.md R199). -/
def execDecIndHl (s : State) : Host.Outcome State Fault Refusal :=
  .next ((s.decByte s.hl).advance 1#16 11)

/-- `DEC (xy+d)` (42_alu8_control.md R200). -/
def execDecIdx (xy : IdxReg) (d : Byte) (s : State) : Host.Outcome State Fault Refusal :=
  .next ((s.decByte (s.idxAddr xy d)).advance 3#16 23)

end Sys2Proof.Machine
end

