-- ==== Sys2Proof/Machine/Bit.lean ====
section
/-! DEFINITION. Bit test, set and reset (44_rotate_bit.md R248-R256). -/

namespace Sys2Proof.Machine

open Sys2Proof

/-- BIT b of a value (44_rotate_bit.md R248): Z, H, N written, S then PV drawn, C unchanged. -/
def State.testBit (s : State) (b : BitVec 3) (v : Byte) : State :=
  (s.useDraws 2).writeFlags
    { s.main.f with z := !v.getLsbD b.toNat, h := true, n := false, s := s.drawn 0, pv := s.drawn 1 }

/-- The value with bit b set (44_rotate_bit.md R251). -/
def setBit (b : BitVec 3) (v : Byte) : Byte := v ||| bitMask b

/-- The value with bit b clear (44_rotate_bit.md R254). -/
def resBit (b : BitVec 3) (v : Byte) : Byte := v &&& ~~~bitMask b

/-- `BIT b,r` (44_rotate_bit.md R248). -/
def execBitR (b : BitVec 3) (r : Reg8) (s : State) : Host.Outcome State Fault Refusal :=
  .next ((s.testBit b (s.reg8 r)).advance 2#16 8)

/-- `BIT b,(HL)` (44_rotate_bit.md R249). -/
def execBitIndHl (b : BitVec 3) (s : State) : Host.Outcome State Fault Refusal :=
  .next ((s.testBit b (s.memRead s.hl)).advance 2#16 12)

/-- `BIT b,(xy+d)` (44_rotate_bit.md R250). -/
def execBitIdx (b : BitVec 3) (xy : IdxReg) (d : Byte) (s : State) : Host.Outcome State Fault Refusal :=
  .next ((s.testBit b (s.memRead (s.idxAddr xy d))).advance 4#16 20)

/-- `SET b,r` (44_rotate_bit.md R251). -/
def execSetR (b : BitVec 3) (r : Reg8) (s : State) : Host.Outcome State Fault Refusal :=
  .next ((s.setReg8 r (setBit b (s.reg8 r))).advance 2#16 8)

/-- `SET b,(HL)` (44_rotate_bit.md R252). -/
def execSetIndHl (b : BitVec 3) (s : State) : Host.Outcome State Fault Refusal :=
  .next ((s.memWrite s.hl (setBit b (s.memRead s.hl))).advance 2#16 15)

/-- `SET b,(xy+d)` (44_rotate_bit.md R253). -/
def execSetIdx (b : BitVec 3) (xy : IdxReg) (d : Byte) (s : State) : Host.Outcome State Fault Refusal :=
  .next ((s.memWrite (s.idxAddr xy d) (setBit b (s.memRead (s.idxAddr xy d)))).advance 4#16 23)

/-- `RES b,r` (44_rotate_bit.md R254). -/
def execResR (b : BitVec 3) (r : Reg8) (s : State) : Host.Outcome State Fault Refusal :=
  .next ((s.setReg8 r (resBit b (s.reg8 r))).advance 2#16 8)

/-- `RES b,(HL)` (44_rotate_bit.md R255). -/
def execResIndHl (b : BitVec 3) (s : State) : Host.Outcome State Fault Refusal :=
  .next ((s.memWrite s.hl (resBit b (s.memRead s.hl))).advance 2#16 15)

/-- `RES b,(xy+d)` (44_rotate_bit.md R256). -/
def execResIdx (b : BitVec 3) (xy : IdxReg) (d : Byte) (s : State) : Host.Outcome State Fault Refusal :=
  .next ((s.memWrite (s.idxAddr xy d) (resBit b (s.memRead (s.idxAddr xy d)))).advance 4#16 23)

end Sys2Proof.Machine
end

