-- ==== Sys2Proof/Machine/Block.lean ====
section
/-! DEFINITION. Block transfer and search (41_load16_exchange_block.md R148-R155), one iteration a step. -/

namespace Sys2Proof.Machine

open Sys2Proof

/-- One iteration of LDI (`step` = 1) or LDD (`step` = 0xFFFF, -1 mod 2^16): 41_load16_exchange_block.md R148, R150. -/
def State.copyByte (s : State) (step : Word) : State :=
  let t := s.memWrite s.de (s.memRead s.hl)
  let u := ((t.setHl (s.hl + step)).setDe (s.de + step)).setBc (s.bc - 1#16)
  u.writeFlags (s.main.f.blockLoad (s.bc - 1#16))

/-- One iteration of CPI (`step` = 1) or CPD (`step` = 0xFFFF, -1 mod 2^16): 41_load16_exchange_block.md R152, R154. -/
def State.compareByte (s : State) (step : Word) : State :=
  let u := (s.setHl (s.hl + step)).setBc (s.bc - 1#16)
  u.writeFlags (s.main.f.blockCompare s.main.a (s.memRead s.hl) (s.bc - 1#16))

/-- LDIR and LDDR go on while the new BC is not 0 (41_load16_exchange_block.md R149). -/
def State.copiesOn (s : State) : Bool := s.bc - 1#16 != 0#16

/-- CPIR and CPDR go on while the new BC is not 0 and no match was found
(41_load16_exchange_block.md R153). -/
def State.searchesOn (s : State) : Bool := s.bc - 1#16 != 0#16 && s.main.a - s.memRead s.hl != 0#8

/-- `LDI` (41_load16_exchange_block.md R148). -/
def execLdi (s : State) : Host.Outcome State Fault Refusal :=
  .next ((s.copyByte 1#16).advance 2#16 16)

/-- `LDIR` (41_load16_exchange_block.md R149). -/
def execLdir (s : State) : Host.Outcome State Fault Refusal :=
  .next ((s.copyByte 1#16).endIteration s.copiesOn)

/-- `LDD` (41_load16_exchange_block.md R150). -/
def execLdd (s : State) : Host.Outcome State Fault Refusal :=
  .next ((s.copyByte 0xFFFF#16).advance 2#16 16)

/-- `LDDR` (41_load16_exchange_block.md R151). -/
def execLddr (s : State) : Host.Outcome State Fault Refusal :=
  .next ((s.copyByte 0xFFFF#16).endIteration s.copiesOn)

/-- `CPI` (41_load16_exchange_block.md R152). -/
def execCpi (s : State) : Host.Outcome State Fault Refusal :=
  .next ((s.compareByte 1#16).advance 2#16 16)

/-- `CPIR` (41_load16_exchange_block.md R153). -/
def execCpir (s : State) : Host.Outcome State Fault Refusal :=
  .next ((s.compareByte 1#16).endIteration s.searchesOn)

/-- `CPD` (41_load16_exchange_block.md R154). -/
def execCpd (s : State) : Host.Outcome State Fault Refusal :=
  .next ((s.compareByte 0xFFFF#16).advance 2#16 16)

/-- `CPDR` (41_load16_exchange_block.md R155). -/
def execCpdr (s : State) : Host.Outcome State Fault Refusal :=
  .next ((s.compareByte 0xFFFF#16).endIteration s.searchesOn)

end Sys2Proof.Machine
end

