-- ==== Sys2Proof/Machine/Control.lean ====
section
/-! DEFINITION. Accumulator and flag operations and CPU control (42_alu8_control.md R201-R212). -/

namespace Sys2Proof.Machine

open Sys2Proof

/-- `DAA` (42_alu8_control.md R201). -/
def execDaa (s : State) : Host.Outcome State Fault Refusal :=
  .next (((s.setA (daa s.main.f s.main.a)).writeFlags (s.main.f.daa s.main.a)).advance 1#16 4)

/-- `CPL` (42_alu8_control.md R202). -/
def execCpl (s : State) : Host.Outcome State Fault Refusal :=
  .next (((s.setA (~~~s.main.a)).writeFlags { s.main.f with h := true, n := true }).advance 1#16 4)

/-- `NEG` (42_alu8_control.md R203). -/
def execNeg (s : State) : Host.Outcome State Fault Refusal :=
  .next (((s.setA (sub8 0#8 s.main.a false)).writeFlags (s.main.f.sub8 0#8 s.main.a false)).advance 2#16 8)

/-- `CCF` (42_alu8_control.md R204). -/
def execCcf (s : State) : Host.Outcome State Fault Refusal :=
  .next ((s.writeFlags { s.main.f with h := s.main.f.c, c := !s.main.f.c, n := false }).advance 1#16 4)

/-- `SCF` (42_alu8_control.md R205). -/
def execScf (s : State) : Host.Outcome State Fault Refusal :=
  .next ((s.writeFlags { s.main.f with c := true, h := false, n := false }).advance 1#16 4)

/-- `NOP` (42_alu8_control.md R206). -/
def execNop (s : State) : Host.Outcome State Fault Refusal :=
  .next (s.advance 1#16 4)

/-- `HALT` (42_alu8_control.md R207). -/
def execHalt (s : State) : Host.Outcome State Fault Refusal :=
  .next ({ s with halted := true }.advance 1#16 4)

/-- `DI` (42_alu8_control.md R208). -/
def execDi (s : State) : Host.Outcome State Fault Refusal :=
  .next ({ s with iff1 := false, iff2 := false }.advance 1#16 4)

/-- `EI` (42_alu8_control.md R209): ei_delay is written only with P_HAS_INTERRUPTS. -/
def execEi (s : State) : Host.Outcome State Fault Refusal :=
  .next ({ s with iff1 := true, iff2 := true, eiDelay := s.cfg.hasInterrupts || s.eiDelay }.advance 1#16 4)

/-- `IM 0` (42_alu8_control.md R210). -/
def execIm0 (s : State) : Host.Outcome State Fault Refusal :=
  .next ({ s with im := .mode0 }.advance 2#16 8)

/-- `IM 1` (42_alu8_control.md R211). -/
def execIm1 (s : State) : Host.Outcome State Fault Refusal :=
  .next ({ s with im := .mode1 }.advance 2#16 8)

/-- `IM 2` (42_alu8_control.md R212). -/
def execIm2 (s : State) : Host.Outcome State Fault Refusal :=
  .next ({ s with im := .mode2 }.advance 2#16 8)

end Sys2Proof.Machine
end

