-- ==== Sys2Proof/Machine/Io.lean ====
section
/-! DEFINITION. I/O port instructions (46_io.md). -/

namespace Sys2Proof.Machine

open Sys2Proof

/-- The flags of the block I/O instructions (46_io.md R274): Z from the new B, N set, and S, H, PV, C
drawn in that order. -/
def State.blockIoFlags (s : State) : State :=
  (s.useDraws 4).writeFlags
    { s.main.f with
      z := s.main.b == 0#8, n := true, s := s.drawn 0, h := s.drawn 1, pv := s.drawn 2, c := s.drawn 3 }

/-- One iteration of INI (`step` = 1) or IND (`step` = 0xFFFF, -1 mod 2^16): 46_io.md R274, R276. The port
is BC before the decrement. -/
def State.inputByte (s : State) (step : Word) : State :=
  let t := (s.ioRead s.bc).memWrite s.hl (s.ioAnswer s.bc)
  ((t.setB (s.main.b - 1#8)).setHl (s.hl + step)).blockIoFlags

/-- One iteration of OUTI (`step` = 1) or OUTD (`step` = 0xFFFF, -1 mod 2^16): 46_io.md R280, R282. The port
is BC after the decrement. -/
def State.outputByte (s : State) (step : Word) : State :=
  let t := s.setB (s.main.b - 1#8)
  ((t.ioWrite t.bc (s.memRead s.hl)).setHl (s.hl + step)).blockIoFlags

/-- INIR, INDR, OTIR, OTDR go on while the new B is not 0 (46_io.md R275). -/
def State.ioGoesOn (s : State) : Bool := s.main.b - 1#8 != 0#8

/-- `IN A,(n)` (46_io.md R272). -/
def execInAIndN (n : Byte) (s : State) : Host.Outcome State Fault Refusal :=
  .next (((s.ioRead (pack s.main.a n)).setA (s.ioAnswer (pack s.main.a n))).advance 2#16 11)

/-- `IN r,(C)` (46_io.md R273). -/
def execInRIndC (r : Reg8) (s : State) : Host.Outcome State Fault Refusal :=
  let v := s.ioAnswer s.bc
  .next ((((s.ioRead s.bc).setReg8 r v).writeFlags (s.main.f.szp v)).advance 2#16 12)

/-- `OUT (n),A` (46_io.md R278). -/
def execOutIndNA (n : Byte) (s : State) : Host.Outcome State Fault Refusal :=
  .next ((s.ioWrite (pack s.main.a n) s.main.a).advance 2#16 11)

/-- `OUT (C),r` (46_io.md R279). -/
def execOutIndCR (r : Reg8) (s : State) : Host.Outcome State Fault Refusal :=
  .next ((s.ioWrite s.bc (s.reg8 r)).advance 2#16 12)

/-- `INI` (46_io.md R274). -/
def execIni (s : State) : Host.Outcome State Fault Refusal :=
  .next ((s.inputByte 1#16).advance 2#16 16)

/-- `INIR` (46_io.md R275). -/
def execInir (s : State) : Host.Outcome State Fault Refusal :=
  .next ((s.inputByte 1#16).endIteration s.ioGoesOn)

/-- `IND` (46_io.md R276). -/
def execInd (s : State) : Host.Outcome State Fault Refusal :=
  .next ((s.inputByte 0xFFFF#16).advance 2#16 16)

/-- `INDR` (46_io.md R277). -/
def execIndr (s : State) : Host.Outcome State Fault Refusal :=
  .next ((s.inputByte 0xFFFF#16).endIteration s.ioGoesOn)

/-- `OUTI` (46_io.md R280). -/
def execOuti (s : State) : Host.Outcome State Fault Refusal :=
  .next ((s.outputByte 1#16).advance 2#16 16)

/-- `OTIR` (46_io.md R281). -/
def execOtir (s : State) : Host.Outcome State Fault Refusal :=
  .next ((s.outputByte 1#16).endIteration s.ioGoesOn)

/-- `OUTD` (46_io.md R282). -/
def execOutd (s : State) : Host.Outcome State Fault Refusal :=
  .next ((s.outputByte 0xFFFF#16).advance 2#16 16)

/-- `OTDR` (46_io.md R283). -/
def execOtdr (s : State) : Host.Outcome State Fault Refusal :=
  .next ((s.outputByte 0xFFFF#16).endIteration s.ioGoesOn)

end Sys2Proof.Machine
end

