-- ==== Sys2Proof/Machine/Jump.lean ====
section
/-! DEFINITION. Jumps, calls, returns and restarts (45_jump_call.md). -/

namespace Sys2Proof.Machine

open Sys2Proof

/-- `JP nn` (45_jump_call.md R257). -/
def execJpNn (nn : Word) (s : State) : Host.Outcome State Fault Refusal :=
  .next (s.goto nn 10)

/-- `JP cc,nn` (45_jump_call.md R258). -/
def execJpCcNn (cc : Cond) (nn : Word) (s : State) : Host.Outcome State Fault Refusal :=
  .next (if s.cond cc then s.goto nn 10 else s.advance 3#16 10)

/-- `JR e` (45_jump_call.md R259). -/
def execJrE (e : Byte) (s : State) : Host.Outcome State Fault Refusal :=
  .next (s.goto (s.relTarget e) 12)

/-- `JR cc,e` (45_jump_call.md R260). -/
def execJrCcE (cc : Cond) (e : Byte) (s : State) : Host.Outcome State Fault Refusal :=
  .next (if s.cond cc then s.goto (s.relTarget e) 12 else s.advance 2#16 7)

/-- `JP (HL)` (45_jump_call.md R261). -/
def execJpIndHl (s : State) : Host.Outcome State Fault Refusal :=
  .next (s.goto s.hl 4)

/-- `JP (xy)` (45_jump_call.md R262). -/
def execJpIndXy (xy : IdxReg) (s : State) : Host.Outcome State Fault Refusal :=
  .next (s.goto (s.idx xy) 8)

/-- `DJNZ e` (45_jump_call.md R263). -/
def execDjnzE (e : Byte) (s : State) : Host.Outcome State Fault Refusal :=
  let t := s.setB (s.main.b - 1#8)
  .next (if t.main.b != 0#8 then t.goto (s.relTarget e) 13 else t.advance 2#16 8)

/-- `CALL nn` (45_jump_call.md R264). -/
def execCallNn (nn : Word) (s : State) : Host.Outcome State Fault Refusal :=
  .next ((s.push16 (s.pc + 3#16)).goto nn 17)

/-- `CALL cc,nn` (45_jump_call.md R265). -/
def execCallCcNn (cc : Cond) (nn : Word) (s : State) : Host.Outcome State Fault Refusal :=
  .next (if s.cond cc then (s.push16 (s.pc + 3#16)).goto nn 17 else s.advance 3#16 10)

/-- `RET` (45_jump_call.md R266). -/
def execRet (s : State) : Host.Outcome State Fault Refusal :=
  .next (s.dropTop.goto s.stackTop 10)

/-- `RETI` (45_jump_call.md R267). -/
def execReti (s : State) : Host.Outcome State Fault Refusal :=
  .next (s.returnFromInterrupt 14)

/-- `RETN` (45_jump_call.md R268). -/
def execRetn (s : State) : Host.Outcome State Fault Refusal :=
  .next (s.returnFromInterrupt 14)

/-- `RST p` (45_jump_call.md R269). -/
def execRstP (p : Byte) (s : State) : Host.Outcome State Fault Refusal :=
  .next ((s.push16 (s.pc + 1#16)).goto (p.setWidth 16) 11)

/-- `RET cc` (45_jump_call.md R270). -/
def execRetCc (cc : Cond) (s : State) : Host.Outcome State Fault Refusal :=
  .next (if s.cond cc then s.dropTop.goto s.stackTop 11 else s.advance 1#16 5)

end Sys2Proof.Machine
end

