-- ==== Sys2Proof/Machine/Load16.lean ====
section
/-! DEFINITION. 16-bit loads, stack and exchanges (41_load16_exchange_block.md R129-R147). -/

namespace Sys2Proof.Machine

open Sys2Proof

/-- `LD dd,nn` (41_load16_exchange_block.md R129). -/
def execLdDdNn (dd : Pair) (nn : Word) (s : State) : Host.Outcome State Fault Refusal :=
  .next ((s.setPair dd nn).advance 3#16 10)

/-- `LD xy,nn` (41_load16_exchange_block.md R130). -/
def execLdXyNn (xy : IdxReg) (nn : Word) (s : State) : Host.Outcome State Fault Refusal :=
  .next ((s.setIdx xy nn).advance 4#16 14)

/-- `LD HL,(nn)` (41_load16_exchange_block.md R131). -/
def execLdHlIndNn (nn : Word) (s : State) : Host.Outcome State Fault Refusal :=
  .next ((s.setHl (s.memRead16 nn)).advance 3#16 16)

/-- `LD dd,(nn)` (41_load16_exchange_block.md R132). -/
def execLdDdIndNn (dd : Pair) (nn : Word) (s : State) : Host.Outcome State Fault Refusal :=
  .next ((s.setPair dd (s.memRead16 nn)).advance 4#16 20)

/-- `LD xy,(nn)` (41_load16_exchange_block.md R133). -/
def execLdXyIndNn (xy : IdxReg) (nn : Word) (s : State) : Host.Outcome State Fault Refusal :=
  .next ((s.setIdx xy (s.memRead16 nn)).advance 4#16 20)

/-- `LD (nn),HL` (41_load16_exchange_block.md R134). -/
def execLdIndNnHl (nn : Word) (s : State) : Host.Outcome State Fault Refusal :=
  .next ((s.memWrite16 nn s.hl).advance 3#16 16)

/-- `LD (nn),dd` (41_load16_exchange_block.md R135). -/
def execLdIndNnDd (nn : Word) (dd : Pair) (s : State) : Host.Outcome State Fault Refusal :=
  .next ((s.memWrite16 nn (s.pair dd)).advance 4#16 20)

/-- `LD (nn),xy` (41_load16_exchange_block.md R136). -/
def execLdIndNnXy (nn : Word) (xy : IdxReg) (s : State) : Host.Outcome State Fault Refusal :=
  .next ((s.memWrite16 nn (s.idx xy)).advance 4#16 20)

/-- `LD SP,HL` (41_load16_exchange_block.md R137). -/
def execLdSpHl (s : State) : Host.Outcome State Fault Refusal :=
  .next ({ s with sp := s.hl }.advance 1#16 6)

/-- `LD SP,xy` (41_load16_exchange_block.md R138). -/
def execLdSpXy (xy : IdxReg) (s : State) : Host.Outcome State Fault Refusal :=
  .next ({ s with sp := s.idx xy }.advance 2#16 10)

/-- `PUSH qq` (41_load16_exchange_block.md R139). -/
def execPushQq (qq : StackPair) (s : State) : Host.Outcome State Fault Refusal :=
  .next ((s.push16 (s.stackPair qq)).advance 1#16 11)

/-- `PUSH xy` (41_load16_exchange_block.md R140). -/
def execPushXy (xy : IdxReg) (s : State) : Host.Outcome State Fault Refusal :=
  .next ((s.push16 (s.idx xy)).advance 2#16 15)

/-- `POP qq` (41_load16_exchange_block.md R141). -/
def execPopQq (qq : StackPair) (s : State) : Host.Outcome State Fault Refusal :=
  .next ((s.dropTop.setStackPair qq s.stackTop).advance 1#16 10)

/-- `POP xy` (41_load16_exchange_block.md R142). -/
def execPopXy (xy : IdxReg) (s : State) : Host.Outcome State Fault Refusal :=
  .next ((s.dropTop.setIdx xy s.stackTop).advance 2#16 14)

/-- `EX DE,HL` (41_load16_exchange_block.md R143). -/
def execExDeHl (s : State) : Host.Outcome State Fault Refusal :=
  .next (((s.setDe s.hl).setHl s.de).advance 1#16 4)

/-- `EX AF,AF'` (41_load16_exchange_block.md R144). -/
def execExAfAf (s : State) : Host.Outcome State Fault Refusal :=
  .next ({ s with
      main := { s.main with a := s.alt.a, f := s.alt.f }
      alt  := { s.alt with a := s.main.a, f := s.main.f } }.advance 1#16 4)

/-- `EXX` (41_load16_exchange_block.md R145). -/
def execExx (s : State) : Host.Outcome State Fault Refusal :=
  .next ({ s with
      main := { s.alt with a := s.main.a, f := s.main.f }
      alt  := { s.main with a := s.alt.a, f := s.alt.f } }.advance 1#16 4)

/-- The stack half of EX (SP),rr (41_load16_exchange_block.md R146): the word `w` replaces the top of the
stack, its high byte written first. -/
def State.swapTop (s : State) (w : Word) : State :=
  (s.memWrite (s.sp + 1#16) (hi8 w)).memWrite s.sp (lo8 w)

/-- `EX (SP),HL` (41_load16_exchange_block.md R146). -/
def execExIndSpHl (s : State) : Host.Outcome State Fault Refusal :=
  .next (((s.swapTop s.hl).setHl s.stackTop).advance 1#16 19)

/-- `EX (SP),xy` (41_load16_exchange_block.md R147). -/
def execExIndSpXy (xy : IdxReg) (s : State) : Host.Outcome State Fault Refusal :=
  .next (((s.swapTop (s.idx xy)).setIdx xy s.stackTop).advance 2#16 23)

end Sys2Proof.Machine
end

