-- ==== Sys2Proof/Machine/Load8.lean ====
section
/-! DEFINITION. The 8-bit loads (40_load8.md). -/

namespace Sys2Proof.Machine

open Sys2Proof

/-- `LD r,r'` (40_load8.md R110). -/
def execLdRR (r : Reg8) (r2 : Reg8) (s : State) : Host.Outcome State Fault Refusal :=
  .next ((s.setReg8 r (s.reg8 r2)).advance 1#16 4)

/-- `LD r,n` (40_load8.md R111). -/
def execLdRN (r : Reg8) (n : Byte) (s : State) : Host.Outcome State Fault Refusal :=
  .next ((s.setReg8 r n).advance 2#16 7)

/-- `LD r,(HL)` (40_load8.md R112). -/
def execLdRIndHl (r : Reg8) (s : State) : Host.Outcome State Fault Refusal :=
  .next ((s.setReg8 r (s.memRead s.hl)).advance 1#16 7)

/-- `LD (HL),r` (40_load8.md R113). -/
def execLdIndHlR (r : Reg8) (s : State) : Host.Outcome State Fault Refusal :=
  .next ((s.memWrite s.hl (s.reg8 r)).advance 1#16 7)

/-- `LD (HL),n` (40_load8.md R114). -/
def execLdIndHlN (n : Byte) (s : State) : Host.Outcome State Fault Refusal :=
  .next ((s.memWrite s.hl n).advance 2#16 10)

/-- `LD A,(BC)` (40_load8.md R115). -/
def execLdAIndBc (s : State) : Host.Outcome State Fault Refusal :=
  .next ((s.setA (s.memRead s.bc)).advance 1#16 7)

/-- `LD A,(DE)` (40_load8.md R116). -/
def execLdAIndDe (s : State) : Host.Outcome State Fault Refusal :=
  .next ((s.setA (s.memRead s.de)).advance 1#16 7)

/-- `LD A,(nn)` (40_load8.md R117). -/
def execLdAIndNn (nn : Word) (s : State) : Host.Outcome State Fault Refusal :=
  .next ((s.setA (s.memRead nn)).advance 3#16 13)

/-- `LD (BC),A` (40_load8.md R118). -/
def execLdIndBcA (s : State) : Host.Outcome State Fault Refusal :=
  .next ((s.memWrite s.bc s.main.a).advance 1#16 7)

/-- `LD (DE),A` (40_load8.md R119). -/
def execLdIndDeA (s : State) : Host.Outcome State Fault Refusal :=
  .next ((s.memWrite s.de s.main.a).advance 1#16 7)

/-- `LD (nn),A` (40_load8.md R120). -/
def execLdIndNnA (nn : Word) (s : State) : Host.Outcome State Fault Refusal :=
  .next ((s.memWrite nn s.main.a).advance 3#16 13)

/-- `LD r,(xy+d)` (40_load8.md R121). -/
def execLdRIdx (r : Reg8) (xy : IdxReg) (d : Byte) (s : State) : Host.Outcome State Fault Refusal :=
  .next ((s.setReg8 r (s.memRead (s.idxAddr xy d))).advance 3#16 19)

/-- `LD (xy+d),r` (40_load8.md R122). -/
def execLdIdxR (xy : IdxReg) (d : Byte) (r : Reg8) (s : State) : Host.Outcome State Fault Refusal :=
  .next ((s.memWrite (s.idxAddr xy d) (s.reg8 r)).advance 3#16 19)

/-- `LD (xy+d),n` (40_load8.md R123). -/
def execLdIdxN (xy : IdxReg) (d : Byte) (n : Byte) (s : State) : Host.Outcome State Fault Refusal :=
  .next ((s.memWrite (s.idxAddr xy d) n).advance 4#16 19)

/-- A takes a special register and the flags of 40_load8.md R124. -/
def State.loadSpecial (s : State) (v : Byte) : State :=
  ((s.setA v).writeFlags (s.main.f.special v s.iff2)).advance 2#16 9

/-- `LD A,I` (40_load8.md R125). -/
def execLdAI (s : State) : Host.Outcome State Fault Refusal :=
  .next (s.loadSpecial s.regI)

/-- `LD A,R` (40_load8.md R126): R as the step's refresh left it. -/
def execLdAR (s : State) : Host.Outcome State Fault Refusal :=
  .next (s.loadSpecial s.regR)

/-- `LD I,A` (40_load8.md R127). -/
def execLdIA (s : State) : Host.Outcome State Fault Refusal :=
  .next ({ s with regI := s.main.a }.advance 2#16 9)

/-- `LD R,A` (40_load8.md R128): after the step's refresh. -/
def execLdRA (s : State) : Host.Outcome State Fault Refusal :=
  .next ({ s with regR := s.main.a }.advance 2#16 9)

end Sys2Proof.Machine
end

