-- ==== Sys2Proof/Machine/Rotate.lean ====
section
/-! DEFINITION. Rotates, shifts and decimal digit rotates (44_rotate_bit.md R221-R247). -/

namespace Sys2Proof.Machine

open Sys2Proof

/-- RLCA, RLA, RRCA, RRA (44_rotate_bit.md R221-R224): A and C, H and N clear. -/
def State.rotateA (s : State) (op : Rotate) : State :=
  let r := op s.main.a s.main.f.c
  (s.setA r.1).writeFlags (s.main.f.rotateA r.2)

/-- A CB rotate or shift of a register (44_rotate_bit.md section 2). -/
def State.rotateReg (s : State) (op : Rotate) (r : Reg8) : State :=
  let q := op (s.reg8 r) s.main.f.c
  (s.setReg8 r q.1).writeFlags (s.main.f.rotate q.1 q.2)

/-- A CB or XYCB rotate or shift of the byte at an address (44_rotate_bit.md section 2): the write may be
ignored, the flags are those of the result. -/
def State.rotateByte (s : State) (op : Rotate) (a : Word) : State :=
  let q := op (s.memRead a) s.main.f.c
  (s.memWrite a q.1).writeFlags (s.main.f.rotate q.1 q.2)

/-- `RLCA` (44_rotate_bit.md R221). -/
def execRlca (s : State) : Host.Outcome State Fault Refusal :=
  .next ((s.rotateA rlc).advance 1#16 4)

/-- `RLA` (44_rotate_bit.md R222). -/
def execRla (s : State) : Host.Outcome State Fault Refusal :=
  .next ((s.rotateA rl).advance 1#16 4)

/-- `RRCA` (44_rotate_bit.md R223). -/
def execRrca (s : State) : Host.Outcome State Fault Refusal :=
  .next ((s.rotateA rrc).advance 1#16 4)

/-- `RRA` (44_rotate_bit.md R224). -/
def execRra (s : State) : Host.Outcome State Fault Refusal :=
  .next ((s.rotateA rr).advance 1#16 4)

/-- `RLC r` (44_rotate_bit.md R225). -/
def execRlcR (r : Reg8) (s : State) : Host.Outcome State Fault Refusal :=
  .next ((s.rotateReg rlc r).advance 2#16 8)

/-- `RLC (HL)` (44_rotate_bit.md R226). -/
def execRlcIndHl (s : State) : Host.Outcome State Fault Refusal :=
  .next ((s.rotateByte rlc s.hl).advance 2#16 15)

/-- `RLC (xy+d)` (44_rotate_bit.md R227). -/
def execRlcIdx (xy : IdxReg) (d : Byte) (s : State) : Host.Outcome State Fault Refusal :=
  .next ((s.rotateByte rlc (s.idxAddr xy d)).advance 4#16 23)

/-- `RRC r` (44_rotate_bit.md R228). -/
def execRrcR (r : Reg8) (s : State) : Host.Outcome State Fault Refusal :=
  .next ((s.rotateReg rrc r).advance 2#16 8)

/-- `RRC (HL)` (44_rotate_bit.md R229). -/
def execRrcIndHl (s : State) : Host.Outcome State Fault Refusal :=
  .next ((s.rotateByte rrc s.hl).advance 2#16 15)

/-- `RRC (xy+d)` (44_rotate_bit.md R230). -/
def execRrcIdx (xy : IdxReg) (d : Byte) (s : State) : Host.Outcome State Fault Refusal :=
  .next ((s.rotateByte rrc (s.idxAddr xy d)).advance 4#16 23)

/-- `RL r` (44_rotate_bit.md R231). -/
def execRlR (r : Reg8) (s : State) : Host.Outcome State Fault Refusal :=
  .next ((s.rotateReg rl r).advance 2#16 8)

/-- `RL (HL)` (44_rotate_bit.md R232). -/
def execRlIndHl (s : State) : Host.Outcome State Fault Refusal :=
  .next ((s.rotateByte rl s.hl).advance 2#16 15)

/-- `RL (xy+d)` (44_rotate_bit.md R233). -/
def execRlIdx (xy : IdxReg) (d : Byte) (s : State) : Host.Outcome State Fault Refusal :=
  .next ((s.rotateByte rl (s.idxAddr xy d)).advance 4#16 23)

/-- `RR r` (44_rotate_bit.md R234). -/
def execRrR (r : Reg8) (s : State) : Host.Outcome State Fault Refusal :=
  .next ((s.rotateReg rr r).advance 2#16 8)

/-- `RR (HL)` (44_rotate_bit.md R235). -/
def execRrIndHl (s : State) : Host.Outcome State Fault Refusal :=
  .next ((s.rotateByte rr s.hl).advance 2#16 15)

/-- `RR (xy+d)` (44_rotate_bit.md R236). -/
def execRrIdx (xy : IdxReg) (d : Byte) (s : State) : Host.Outcome State Fault Refusal :=
  .next ((s.rotateByte rr (s.idxAddr xy d)).advance 4#16 23)

/-- `SLA r` (44_rotate_bit.md R237). -/
def execSlaR (r : Reg8) (s : State) : Host.Outcome State Fault Refusal :=
  .next ((s.rotateReg sla r).advance 2#16 8)

/-- `SLA (HL)` (44_rotate_bit.md R238). -/
def execSlaIndHl (s : State) : Host.Outcome State Fault Refusal :=
  .next ((s.rotateByte sla s.hl).advance 2#16 15)

/-- `SLA (xy+d)` (44_rotate_bit.md R239). -/
def execSlaIdx (xy : IdxReg) (d : Byte) (s : State) : Host.Outcome State Fault Refusal :=
  .next ((s.rotateByte sla (s.idxAddr xy d)).advance 4#16 23)

/-- `SRA r` (44_rotate_bit.md R240). -/
def execSraR (r : Reg8) (s : State) : Host.Outcome State Fault Refusal :=
  .next ((s.rotateReg sra r).advance 2#16 8)

/-- `SRA (HL)` (44_rotate_bit.md R241). -/
def execSraIndHl (s : State) : Host.Outcome State Fault Refusal :=
  .next ((s.rotateByte sra s.hl).advance 2#16 15)

/-- `SRA (xy+d)` (44_rotate_bit.md R242). -/
def execSraIdx (xy : IdxReg) (d : Byte) (s : State) : Host.Outcome State Fault Refusal :=
  .next ((s.rotateByte sra (s.idxAddr xy d)).advance 4#16 23)

/-- `SRL r` (44_rotate_bit.md R243). -/
def execSrlR (r : Reg8) (s : State) : Host.Outcome State Fault Refusal :=
  .next ((s.rotateReg srl r).advance 2#16 8)

/-- `SRL (HL)` (44_rotate_bit.md R244). -/
def execSrlIndHl (s : State) : Host.Outcome State Fault Refusal :=
  .next ((s.rotateByte srl s.hl).advance 2#16 15)

/-- `SRL (xy+d)` (44_rotate_bit.md R245). -/
def execSrlIdx (xy : IdxReg) (d : Byte) (s : State) : Host.Outcome State Fault Refusal :=
  .next ((s.rotateByte srl (s.idxAddr xy d)).advance 4#16 23)

/-- RLD and RRD: the byte `m` goes to (HL) and `a` to A, with the flags of the new A
(44_rotate_bit.md R246). -/
def State.rotateDigit (s : State) (m a : Byte) : State :=
  ((s.memWrite s.hl m).setA a).writeFlags (s.main.f.szp a)

/-- `RLD` (44_rotate_bit.md R246). -/
def execRld (s : State) : Host.Outcome State Fault Refusal :=
  let v := s.memRead s.hl
  .next ((s.rotateDigit ((v <<< 4) ||| (s.main.a &&& 0x0F#8))
    ((s.main.a &&& 0xF0#8) ||| (v >>> 4))).advance 2#16 18)

/-- `RRD` (44_rotate_bit.md R247). -/
def execRrd (s : State) : Host.Outcome State Fault Refusal :=
  let v := s.memRead s.hl
  .next ((s.rotateDigit ((s.main.a <<< 4) ||| (v >>> 4))
    ((s.main.a &&& 0xF0#8) ||| (v &&& 0x0F#8))).advance 2#16 18)

end Sys2Proof.Machine
end

