-- ==== Sys2Proof/Machine/Dispatch.lean ====
section
/-! DEFINITION. One arm per instruction, each a direct call of its meaning. -/

namespace Sys2Proof.Machine

open Sys2Proof

def exec (i : Instr) (s : State) : Host.Outcome State Fault Refusal :=
  match i with
  -- 40_load8.md
  | .ldRR r r2 => Sys2Proof.Machine.execLdRR r r2 s
  | .ldRN r n => Sys2Proof.Machine.execLdRN r n s
  | .ldRIndHl r => Sys2Proof.Machine.execLdRIndHl r s
  | .ldIndHlR r => Sys2Proof.Machine.execLdIndHlR r s
  | .ldIndHlN n => Sys2Proof.Machine.execLdIndHlN n s
  | .ldAIndBc => Sys2Proof.Machine.execLdAIndBc s
  | .ldAIndDe => Sys2Proof.Machine.execLdAIndDe s
  | .ldAIndNn nn => Sys2Proof.Machine.execLdAIndNn nn s
  | .ldIndBcA => Sys2Proof.Machine.execLdIndBcA s
  | .ldIndDeA => Sys2Proof.Machine.execLdIndDeA s
  | .ldIndNnA nn => Sys2Proof.Machine.execLdIndNnA nn s
  | .ldRIdx r xy d => Sys2Proof.Machine.execLdRIdx r xy d s
  | .ldIdxR xy d r => Sys2Proof.Machine.execLdIdxR xy d r s
  | .ldIdxN xy d n => Sys2Proof.Machine.execLdIdxN xy d n s
  | .ldAI => Sys2Proof.Machine.execLdAI s
  | .ldAR => Sys2Proof.Machine.execLdAR s
  | .ldIA => Sys2Proof.Machine.execLdIA s
  | .ldRA => Sys2Proof.Machine.execLdRA s
  -- 41_load16_exchange_block.md
  | .ldDdNn dd nn => Sys2Proof.Machine.execLdDdNn dd nn s
  | .ldXyNn xy nn => Sys2Proof.Machine.execLdXyNn xy nn s
  | .ldHlIndNn nn => Sys2Proof.Machine.execLdHlIndNn nn s
  | .ldDdIndNn dd nn => Sys2Proof.Machine.execLdDdIndNn dd nn s
  | .ldXyIndNn xy nn => Sys2Proof.Machine.execLdXyIndNn xy nn s
  | .ldIndNnHl nn => Sys2Proof.Machine.execLdIndNnHl nn s
  | .ldIndNnDd nn dd => Sys2Proof.Machine.execLdIndNnDd nn dd s
  | .ldIndNnXy nn xy => Sys2Proof.Machine.execLdIndNnXy nn xy s
  | .ldSpHl => Sys2Proof.Machine.execLdSpHl s
  | .ldSpXy xy => Sys2Proof.Machine.execLdSpXy xy s
  | .pushQq qq => Sys2Proof.Machine.execPushQq qq s
  | .pushXy xy => Sys2Proof.Machine.execPushXy xy s
  | .popQq qq => Sys2Proof.Machine.execPopQq qq s
  | .popXy xy => Sys2Proof.Machine.execPopXy xy s
  | .exDeHl => Sys2Proof.Machine.execExDeHl s
  | .exAfAf => Sys2Proof.Machine.execExAfAf s
  | .exx => Sys2Proof.Machine.execExx s
  | .exIndSpHl => Sys2Proof.Machine.execExIndSpHl s
  | .exIndSpXy xy => Sys2Proof.Machine.execExIndSpXy xy s
  | .ldi => Sys2Proof.Machine.execLdi s
  | .ldir => Sys2Proof.Machine.execLdir s
  | .ldd => Sys2Proof.Machine.execLdd s
  | .lddr => Sys2Proof.Machine.execLddr s
  | .cpi => Sys2Proof.Machine.execCpi s
  | .cpir => Sys2Proof.Machine.execCpir s
  | .cpd => Sys2Proof.Machine.execCpd s
  | .cpdr => Sys2Proof.Machine.execCpdr s
  -- 42_alu8_control.md
  | .addAR r => Sys2Proof.Machine.execAddAR r s
  | .addAN n => Sys2Proof.Machine.execAddAN n s
  | .addAIndHl => Sys2Proof.Machine.execAddAIndHl s
  | .addAIdx xy d => Sys2Proof.Machine.execAddAIdx xy d s
  | .adcAR r => Sys2Proof.Machine.execAdcAR r s
  | .adcAN n => Sys2Proof.Machine.execAdcAN n s
  | .adcAIndHl => Sys2Proof.Machine.execAdcAIndHl s
  | .adcAIdx xy d => Sys2Proof.Machine.execAdcAIdx xy d s
  | .subR r => Sys2Proof.Machine.execSubR r s
  | .subN n => Sys2Proof.Machine.execSubN n s
  | .subIndHl => Sys2Proof.Machine.execSubIndHl s
  | .subIdx xy d => Sys2Proof.Machine.execSubIdx xy d s
  | .sbcAR r => Sys2Proof.Machine.execSbcAR r s
  | .sbcAN n => Sys2Proof.Machine.execSbcAN n s
  | .sbcAIndHl => Sys2Proof.Machine.execSbcAIndHl s
  | .sbcAIdx xy d => Sys2Proof.Machine.execSbcAIdx xy d s
  | .andR r => Sys2Proof.Machine.execAndR r s
  | .andN n => Sys2Proof.Machine.execAndN n s
  | .andIndHl => Sys2Proof.Machine.execAndIndHl s
  | .andIdx xy d => Sys2Proof.Machine.execAndIdx xy d s
  | .xorR r => Sys2Proof.Machine.execXorR r s
  | .xorN n => Sys2Proof.Machine.execXorN n s
  | .xorIndHl => Sys2Proof.Machine.execXorIndHl s
  | .xorIdx xy d => Sys2Proof.Machine.execXorIdx xy d s
  | .orR r => Sys2Proof.Machine.execOrR r s
  | .orN n => Sys2Proof.Machine.execOrN n s
  | .orIndHl => Sys2Proof.Machine.execOrIndHl s
  | .orIdx xy d => Sys2Proof.Machine.execOrIdx xy d s
  | .cpR r => Sys2Proof.Machine.execCpR r s
  | .cpN n => Sys2Proof.Machine.execCpN n s
  | .cpIndHl => Sys2Proof.Machine.execCpIndHl s
  | .cpIdx xy d => Sys2Proof.Machine.execCpIdx xy d s
  | .incR r => Sys2Proof.Machine.execIncR r s
  | .incIndHl => Sys2Proof.Machine.execIncIndHl s
  | .incIdx xy d => Sys2Proof.Machine.execIncIdx xy d s
  | .decR r => Sys2Proof.Machine.execDecR r s
  | .decIndHl => Sys2Proof.Machine.execDecIndHl s
  | .decIdx xy d => Sys2Proof.Machine.execDecIdx xy d s
  | .daa => Sys2Proof.Machine.execDaa s
  | .cpl => Sys2Proof.Machine.execCpl s
  | .neg => Sys2Proof.Machine.execNeg s
  | .ccf => Sys2Proof.Machine.execCcf s
  | .scf => Sys2Proof.Machine.execScf s
  | .nop => Sys2Proof.Machine.execNop s
  | .halt => Sys2Proof.Machine.execHalt s
  | .di => Sys2Proof.Machine.execDi s
  | .ei => Sys2Proof.Machine.execEi s
  | .im0 => Sys2Proof.Machine.execIm0 s
  | .im1 => Sys2Proof.Machine.execIm1 s
  | .im2 => Sys2Proof.Machine.execIm2 s
  -- 43_alu16.md
  | .addHlSs ss => Sys2Proof.Machine.execAddHlSs ss s
  | .adcHlSs ss => Sys2Proof.Machine.execAdcHlSs ss s
  | .sbcHlSs ss => Sys2Proof.Machine.execSbcHlSs ss s
  | .addXyPp xy pp => Sys2Proof.Machine.execAddXyPp xy pp s
  | .incSs ss => Sys2Proof.Machine.execIncSs ss s
  | .incXy xy => Sys2Proof.Machine.execIncXy xy s
  | .decSs ss => Sys2Proof.Machine.execDecSs ss s
  | .decXy xy => Sys2Proof.Machine.execDecXy xy s
  -- 44_rotate_bit.md
  | .rlca => Sys2Proof.Machine.execRlca s
  | .rla => Sys2Proof.Machine.execRla s
  | .rrca => Sys2Proof.Machine.execRrca s
  | .rra => Sys2Proof.Machine.execRra s
  | .rlcR r => Sys2Proof.Machine.execRlcR r s
  | .rlcIndHl => Sys2Proof.Machine.execRlcIndHl s
  | .rlcIdx xy d => Sys2Proof.Machine.execRlcIdx xy d s
  | .rrcR r => Sys2Proof.Machine.execRrcR r s
  | .rrcIndHl => Sys2Proof.Machine.execRrcIndHl s
  | .rrcIdx xy d => Sys2Proof.Machine.execRrcIdx xy d s
  | .rlR r => Sys2Proof.Machine.execRlR r s
  | .rlIndHl => Sys2Proof.Machine.execRlIndHl s
  | .rlIdx xy d => Sys2Proof.Machine.execRlIdx xy d s
  | .rrR r => Sys2Proof.Machine.execRrR r s
  | .rrIndHl => Sys2Proof.Machine.execRrIndHl s
  | .rrIdx xy d => Sys2Proof.Machine.execRrIdx xy d s
  | .slaR r => Sys2Proof.Machine.execSlaR r s
  | .slaIndHl => Sys2Proof.Machine.execSlaIndHl s
  | .slaIdx xy d => Sys2Proof.Machine.execSlaIdx xy d s
  | .sraR r => Sys2Proof.Machine.execSraR r s
  | .sraIndHl => Sys2Proof.Machine.execSraIndHl s
  | .sraIdx xy d => Sys2Proof.Machine.execSraIdx xy d s
  | .srlR r => Sys2Proof.Machine.execSrlR r s
  | .srlIndHl => Sys2Proof.Machine.execSrlIndHl s
  | .srlIdx xy d => Sys2Proof.Machine.execSrlIdx xy d s
  | .rld => Sys2Proof.Machine.execRld s
  | .rrd => Sys2Proof.Machine.execRrd s
  | .bitR b r => Sys2Proof.Machine.execBitR b r s
  | .bitIndHl b => Sys2Proof.Machine.execBitIndHl b s
  | .bitIdx b xy d => Sys2Proof.Machine.execBitIdx b xy d s
  | .setR b r => Sys2Proof.Machine.execSetR b r s
  | .setIndHl b => Sys2Proof.Machine.execSetIndHl b s
  | .setIdx b xy d => Sys2Proof.Machine.execSetIdx b xy d s
  | .resR b r => Sys2Proof.Machine.execResR b r s
  | .resIndHl b => Sys2Proof.Machine.execResIndHl b s
  | .resIdx b xy d => Sys2Proof.Machine.execResIdx b xy d s
  -- 45_jump_call.md
  | .jpNn nn => Sys2Proof.Machine.execJpNn nn s
  | .jpCcNn cc nn => Sys2Proof.Machine.execJpCcNn cc nn s
  | .jrE e => Sys2Proof.Machine.execJrE e s
  | .jrCcE cc e => Sys2Proof.Machine.execJrCcE cc e s
  | .jpIndHl => Sys2Proof.Machine.execJpIndHl s
  | .jpIndXy xy => Sys2Proof.Machine.execJpIndXy xy s
  | .djnzE e => Sys2Proof.Machine.execDjnzE e s
  | .callNn nn => Sys2Proof.Machine.execCallNn nn s
  | .callCcNn cc nn => Sys2Proof.Machine.execCallCcNn cc nn s
  | .ret => Sys2Proof.Machine.execRet s
  | .reti => Sys2Proof.Machine.execReti s
  | .retn => Sys2Proof.Machine.execRetn s
  | .rstP p => Sys2Proof.Machine.execRstP p s
  | .retCc cc => Sys2Proof.Machine.execRetCc cc s
  -- 46_io.md
  | .inAIndN n => Sys2Proof.Machine.execInAIndN n s
  | .inRIndC r => Sys2Proof.Machine.execInRIndC r s
  | .outIndNA n => Sys2Proof.Machine.execOutIndNA n s
  | .outIndCR r => Sys2Proof.Machine.execOutIndCR r s
  | .ini => Sys2Proof.Machine.execIni s
  | .inir => Sys2Proof.Machine.execInir s
  | .ind => Sys2Proof.Machine.execInd s
  | .indr => Sys2Proof.Machine.execIndr s
  | .outi => Sys2Proof.Machine.execOuti s
  | .otir => Sys2Proof.Machine.execOtir s
  | .outd => Sys2Proof.Machine.execOutd s
  | .otdr => Sys2Proof.Machine.execOtdr s

end Sys2Proof.Machine
end

