-- ==== Sys2Proof/Machine/Cycle.lean ====
section
/-! DEFINITION. The step of 30_encoding.md R104: fault, interrupts, refresh, halt, fetch, decode, effect;
and placing an instruction where the next step fetches. -/

namespace Sys2Proof.Machine

open Sys2Proof

/-- The four bytes at PC, PC+1, PC+2, PC+3 mod 2^16 (30_encoding.md R76). Reads have no side effect
(20_memory.md R54), so reading bytes a short instruction does not have changes nothing. -/
def State.fetched (s : State) : List Byte :=
  [s.memRead s.pc, s.memRead (s.pc + 1#16), s.memRead (s.pc + 2#16), s.memRead (s.pc + 3#16)]

/-- The instruction at PC (30_encoding.md R86). -/
def State.decoded (s : State) : Except DecodeError Instr := decodeBytes s.fetched

/-- The refresh of a step that fetches (30_encoding.md R104): once, and under PerM1 once more after a
first byte CB, DD, ED or FD (log 14). -/
def State.fetchRefresh (s : State) : State :=
  match s.cfg.rInc with
  | .perInstruction => s.refresh
  | .perM1 => if isTableByte (s.memRead s.pc) then s.refresh.refresh else s.refresh

/-- `ei_delay` ends with a step that does not execute EI (60_exceptions.md R287, log 8). It is cleared before
the effect runs, which EI alone can set again and nothing else reads. -/
def State.endEiDelay (s : State) : State :=
  if s.cfg.hasInterrupts then { s with eiDelay := false } else s

/-- The state the effect of a decoded instruction runs on. -/
def State.ready (s : State) : State := s.fetchRefresh.endEiDelay

/-- A halted cycle (30_encoding.md R104): the refresh and 4 cycles; it does not execute EI, so `ei_delay`
ends (60_exceptions.md R287, log 8). -/
def State.haltedCycle (s : State) : State := { s.refresh.endEiDelay with lastCycles := 4 }

/-- A step that accepts no interrupt and is not halted: fetch, decode, and the effect, or Unimplemented
with the bytes read (30_encoding.md R97, R104). -/
def State.runInstruction (s : State) : Host.Outcome State Fault Refusal :=
  match s.decoded with
  | .ok i => exec i s.ready
  | .error e => .next (s.fetchRefresh.raiseUnimplemented s.pc (s.fetched.take e.bytesRead))

/-- `step()` (30_encoding.md R104, 60_exceptions.md R293). -/
def runStep (s : State) : Host.Outcome State Fault Refusal :=
  match s.fault with
  | some info => .fault (.faulted info)
  | none =>
    match s.acceptance with
    | .nmi => .next s.acceptNmi
    | .maskable => .next s.acceptInt
    | .none => if s.halted then .next s.haltedCycle else s.runInstruction

/-! ### Placing an instruction where the next step fetches (log 11) -/

/-- The image with byte `v` at offset `off`, lengthened if it was shorter by the bytes read there before. -/
def State.patchImage (s : State) (off : Nat) (v : Byte) : List Byte :=
  let img := s.mc.image
  if off < img.length then img.set off v
  else img ++ (List.range (off - img.length)).map (fun k => s.rom (img.length + k)) ++ [v]

/-- The machine with byte `v` in the cell behind address `a`. Where that cell is ROM, the image is
another one, as a cartridge loaded from outside would be. -/
def State.placeByte (s : State) (a : Word) (v : Byte) : State :=
  match s.mc.place a with
  | .rom off => { s with mc := { s.mc with image := s.patchImage off v } }
  | .cram i => { s with mc := { s.mc with cram := Memory.write s.mc.cram i v } }
  | .ram i => { s with mc := { s.mc with ram := Memory.write s.mc.ram i v } }
  | .top j => { s with mc := s.mc.setTopCell j v }

/-- The bytes placed at `a`, `a + 1`, … -/
def State.placeBytes (s : State) (a : Word) (bs : List Byte) : State :=
  match bs with
  | [] => s
  | v :: rest => (s.placeByte a v).placeBytes (a + 1#16) rest

/-- The machine with the instruction of bits `w` at PC, able to fetch it: not faulted, not halted, no
interrupt pending. -/
def State.placeInstruction (s : State) (nbits w : Nat) : State :=
  { s.placeBytes s.pc (tableBytes nbits w) with
    fault := none, halted := false, nmiPending := false, intLine := false }

end Sys2Proof.Machine
end

