-- ==== Sys2Proof/Machine/Step.lean ====
section
/-! DEFINITION. The step of the machine and the host's way to place one instruction, under their fixed
names; what they do is in Machine/Cycle.lean. -/

namespace Sys2Proof.Machine

open Sys2Proof

/-- One `step()` of the core (30_encoding.md R104). -/
def step (s : State) : Host.Outcome State Fault Refusal := runStep s

/-- The state `s` with the instruction whose bits are `w`, numbered as spec/opcode_table.json numbers them,
where `step` fetches next (log 11). -/
def State.withFetchWord (s : State) (nbits w : Nat) : State := s.placeInstruction nbits w

end Sys2Proof.Machine
end

