-- ==== Sys2Proof/Machine/HostCalls.lean ====
section
/-! DEFINITION. The host's calls (70_reset_and_hazards.md R300-R309): reset, cartridge load, the
MachineClock, the memory accessors, the debug hooks and the interrupt inputs. Each is made between steps
(R310). -/

namespace Sys2Proof.Machine

open Sys2Proof

/-! ### Reset and load -/

/-- The mapper part of a reset (10_state.md R42). -/
def MemCtl.resetMapper (m : MemCtl) : MemCtl :=
  let paged := { m with apage0 := 0x00#8, apage1 := 0x01#8, apage2 := 0x02#8 }
  match m.variant with
  | .standard => { paged with top0 := 0x00#8, top1 := 0x00#8, top2 := 0x01#8, top3 := 0x02#8 }
  | .alternateChecksum => paged

/-- The RAM part of a reset (10_state.md R42): every byte of `ram` and `cram` becomes 0x00 if
P_RESET_CLEARS_RAM, else both stay. -/
def MemCtl.resetRam (m : MemCtl) (clears : Bool) : MemCtl :=
  if clears then { m with ram := [], cram := [] } else m

/-- `reset()` (70_reset_and_hazards.md R300). `image`, `variant`, `cart_loaded`, `int_line`, `int_data`
stay, and so do the parameters and the model's own fields. -/
def State.hostReset (s : State) : State :=
  { s with
    main := RegSet.zero, alt := RegSet.zero, ix := 0#16, iy := 0#16, sp := 0xDFF0#16, pc := 0#16
    regI := 0#8, regR := 0#8, iff1 := false, iff2 := false, im := .mode0, halted := false
    fault := none, lastCycles := 0, eiDelay := false, nmiPending := false
    mc := s.mc.resetMapper.resetRam s.cfg.resetClearsRam }

/-- `strip(bytes)` (20_memory.md R66): a length that is 512 modulo 0x4000 loses its first 512 bytes. -/
def stripHeader (bytes : List Byte) : List Byte :=
  if bytes.length % 0x4000 = 512 then bytes.drop 512 else bytes

/-- The detection rule on the four bytes at 0x7FE6-0x7FE9 (20_memory.md R67): two little-endian words
whose sum is 0 modulo 0x10000. -/
def checksumVariant (b6 b7 b8 b9 : Byte) : Variant :=
  if pack b7 b6 + pack b9 b8 = 0#16 then .alternateChecksum else .standard

/-- `detect(image)` (20_memory.md R67): an image too short to hold the four bytes is Standard. -/
def detectVariant (image : List Byte) : Variant :=
  if image.length < 0x7FEA then .standard
  else checksumVariant (image.getD 0x7FE6 0#8) (image.getD 0x7FE7 0#8)
    (image.getD 0x7FE8 0#8) (image.getD 0x7FE9 0#8)

/-- `load_cartridge(bytes)` (70_reset_and_hazards.md R301). -/
def State.loadCartridge (s : State) (bytes : List Byte) : State :=
  let image := stripHeader bytes
  let t := { s with mc := { s.mc with image := image, variant := detectVariant image } }.hostReset
  { t with mc := { t.mc with cartLoaded := true } }

/-! ### step() and update() -/

/-- What `step()` and `update()` return to the host (70_reset_and_hazards.md R303). -/
inductive HostOutcome where
  | ok
  | unimplemented (info : Unimplemented)
  | faulted
  deriving DecidableEq, Repr

/-- `step()` as the host sees it (70_reset_and_hazards.md R303): the outcome and the machine after it. A
step that stops changes no state (60_exceptions.md R286). -/
def State.hostStep (s : State) : HostOutcome × State :=
  match step s with
  | .next t =>
    match t.fault with
    | none => (.ok, t)
    | some info => (.unimplemented info, t)
  | .fault _ => (.faulted, s)
  | .refused _ => (.faulted, s)

/-- The loop of `update()` (60_exceptions.md R295), at most `fuel` steps. Every Ok step costs at least 4
cycles, so `fuel = budget` steps reach the budget (log 15). -/
def updateLoop (budget : Nat) (fuel acc : Nat) (s : State) : HostOutcome × State :=
  match fuel with
  | 0 => (.ok, s)
  | k + 1 =>
    if acc < budget then
      match s.hostStep with
      | (.ok, t) => updateLoop budget k (acc + t.lastCycles) t
      | (o, t) => (o, t)
    else (.ok, s)

/-- The cycle budget of a frame (60_exceptions.md R295): P_CLOCK_HZ div P_FPS. -/
def frameBudget (p : Params) : Nat := p.clockHz / p.fps

/-- `update()` (60_exceptions.md R295). -/
def State.update (s : State) : HostOutcome × State := updateLoop (frameBudget s.cfg) (frameBudget s.cfg) 0 s

/-! ### Memory accessors and debug hooks -/

/-- `mc_read(address)` (20_memory.md R64). -/
def State.mcRead (s : State) (address : Int) : Byte :=
  if address < 0 ∨ 0xFFFF < address then 0#8 else s.memRead (BitVec.ofInt 16 address)

/-- `mc_write(address, value)` (20_memory.md R64). -/
def State.mcWrite (s : State) (address value : Int) : State :=
  if address < 0 ∨ 0xFFFF < address then s
  else s.memWrite (BitVec.ofInt 16 address) (BitVec.ofInt 8 value)

/-- `set_pc(value)` (70_reset_and_hazards.md R305). -/
def State.setPc (s : State) (value : Int) : State := { s with pc := BitVec.ofInt 16 value }

/-- The value copy `get_registers()` returns (10_state.md R45). -/
structure Registers where
  main   : RegSet
  alt    : RegSet
  ix     : Word
  iy     : Word
  sp     : Word
  pc     : Word
  regI   : Byte
  regR   : Byte
  iff1   : Bool
  iff2   : Bool
  im     : IntMode
  halted : Bool
  deriving DecidableEq, Repr

/-- `get_registers()` (10_state.md R45). -/
def State.getRegisters (s : State) : Registers where
  main   := s.main
  alt    := s.alt
  ix     := s.ix
  iy     := s.iy
  sp     := s.sp
  pc     := s.pc
  regI   := s.regI
  regR   := s.regR
  iff1   := s.iff1
  iff2   := s.iff2
  im     := s.im
  halted := s.halted

/-- The six flags `is_flag_set` can name (70_reset_and_hazards.md R307); X3 and X5 cannot be named. -/
inductive FlagName where
  | carry | subtract | parityOverflow | halfCarry | zero | sign
  deriving DecidableEq, Repr

/-- `is_flag_set(flag)` (70_reset_and_hazards.md R307). -/
def State.isFlagSet (s : State) : FlagName → Bool
  | .carry => s.main.f.c
  | .subtract => s.main.f.n
  | .parityOverflow => s.main.f.pv
  | .halfCarry => s.main.f.h
  | .zero => s.main.f.z
  | .sign => s.main.f.s

/-- `get_cycles()` (70_reset_and_hazards.md R306). -/
def State.getCycles (s : State) : Nat := s.lastCycles

/-- `cart_loaded()` (70_reset_and_hazards.md R308). -/
def State.cartLoaded (s : State) : Bool := s.mc.cartLoaded

/-- `dump_cartridge_data()` (20_memory.md R69). -/
def State.dumpCartridgeData (s : State) : List Byte := s.mc.image

/-! ### Interrupt inputs and the I/O oracle -/

/-- `nmi()` (60_exceptions.md R292); without P_HAS_INTERRUPTS there is no such input (log 12). -/
def State.nmi (s : State) : State :=
  if s.cfg.hasInterrupts then { s with nmiPending := true } else s

/-- `set_int(level, data)` (60_exceptions.md R292); without P_HAS_INTERRUPTS there is no such input
(log 12). -/
def State.setInt (s : State) (level : Bool) (data : Byte) : State :=
  if s.cfg.hasInterrupts then { s with intLine := level, intData := data } else s

/-- The host supplies answers to the next IoReads (70_reset_and_hazards.md R309, log 3). -/
def State.supplyInput (s : State) (answers : List Byte) : State :=
  { s with ioInput := s.ioInput ++ answers }

end Sys2Proof.Machine
end

