-- ==== Sys2Proof/Safety.lean ====
section
/-! DEFINITION. The words claims are stated in: what an instruction leaves unchanged, what a store does to
memory as the decoder shows it, and the invariant every step keeps. -/

namespace Sys2Proof.Machine

open Sys2Proof

/-! ### Completion and the end of an instruction -/

/-- `exec i s` answers a next state, and that state satisfies `post`. -/
def Completes (i : Instr) (s : State) (post : State → Prop) : Prop := ∃ t, exec i s = .next t ∧ post t

/-- The instruction ends at `pc` and has cost `cycles` (30_encoding.md R105, R106). -/
def EndsAt (t : State) (pc : Word) (cycles : Nat) : Prop := t.pc = pc ∧ t.lastCycles = cycles

/-! ### What stays -/

/-- F is unchanged, all eight bits, and nothing was drawn. -/
def KeepsFlags (s t : State) : Prop := t.main.f = s.main.f ∧ t.draws = s.draws

/-- The six flags with a meaning, in the order S Z H PV N C. X3 and X5 are free (10_state.md R28). -/
def FlagsAre (t : State) (sf zf hf pv nf cf : Bool) : Prop :=
  t.main.f.s = sf ∧ t.main.f.z = zf ∧ t.main.f.h = hf ∧ t.main.f.pv = pv ∧ t.main.f.n = nf ∧ t.main.f.c = cf

/-- Every 8-bit register but those of `but` is unchanged. -/
def KeepsReg8 (but : List Reg8) (s t : State) : Prop := ∀ r, r ∉ but → t.reg8 r = s.reg8 r

/-- Both index registers are unchanged. -/
def KeepsIndex (s t : State) : Prop := t.ix = s.ix ∧ t.iy = s.iy

/-- SP is unchanged. -/
def KeepsSp (s t : State) : Prop := t.sp = s.sp

/-- The alternate registers are unchanged (10_state.md R23). -/
def KeepsAlternate (s t : State) : Prop := t.alt = s.alt

/-- I and R are unchanged (10_state.md R30, R31). -/
def KeepsIR (s t : State) : Prop := t.regI = s.regI ∧ t.regR = s.regR

/-- IFF1, IFF2, IM, halted and ei_delay are unchanged. -/
def KeepsControl (s t : State) : Prop :=
  t.iff1 = s.iff1 ∧ t.iff2 = s.iff2 ∧ t.im = s.im ∧ t.halted = s.halted ∧ t.eiDelay = s.eiDelay

/-- No I/O access took place (46_io.md R271). -/
def KeepsIo (s t : State) : Prop := t.ioInput = s.ioInput ∧ t.ioEvents = s.ioEvents

/-- What no instruction changes: the fault, the host's interrupt inputs, the parameters, and the
cartridge. -/
def KeepsHost (s t : State) : Prop :=
  t.fault = s.fault ∧ t.nmiPending = s.nmiPending ∧ t.intLine = s.intLine ∧ t.intData = s.intData ∧
    t.cfg = s.cfg ∧ t.mc.image = s.mc.image ∧ t.mc.variant = s.mc.variant ∧ t.mc.cartLoaded = s.mc.cartLoaded

/-- Everything but the main registers, the index registers, SP, PC, the cycle count and memory is
unchanged. -/
def KeepsRest (s t : State) : Prop :=
  KeepsAlternate s t ∧ KeepsIR s t ∧ KeepsControl s t ∧ KeepsIo s t ∧ KeepsHost s t

/-! ### What a store does to memory (20_memory.md R61, R62) -/

/-- The windows in which `ram` is seen (20_memory.md R49): 0xC000 to 0xFFFB. -/
def inRam (a : Word) : Bool := decide (0xC000 ≤ a.toNat) && decide (a.toNat < 0xFFFC)

/-- `x` shows the same cell as `a`: itself, or its mirror in the other RAM window (20_memory.md R62). -/
def sharesCell (a x : Word) : Bool :=
  a == x || inRam a && inRam x && decide (a.toNat % 0x2000 = x.toNat % 0x2000)

/-- The slot whose contents a store at `a` can exchange: the mapper registers of 10_state.md R39 and R40. -/
def remappedSlot (variant : Variant) (a : Word) : Option Nat :=
  match variant with
  | .standard =>
    if a = 0xFFFC#16 then some 2
    else if a = 0xFFFD#16 then some 0
    else if a = 0xFFFE#16 then some 1
    else if a = 0xFFFF#16 then some 2
    else none
  | .alternateChecksum =>
    if a = 0x0000#16 then some 0
    else if a = 0x4000#16 then some 1
    else if a = 0x8000#16 then some 2
    else none

/-- A store at `a` keeps the byte it stores: RAM, a top cell, or cartridge RAM in slot 2
(20_memory.md R62). -/
def State.storable (s : State) (a : Word) : Bool :=
  decide (0xC000 ≤ a.toNat) || decide (0x8000 ≤ a.toNat) && s.mc.ramEnabled

/-- `x` lies outside what a store at `a` touches: it shows another cell, and no cell of an exchanged
slot. -/
def State.outside (s : State) (a x : Word) : Prop :=
  sharesCell a x = false ∧ remappedSlot s.mc.variant a ≠ some (x.toNat / 0x4000)

/-- The instruction stores exactly these bytes, in this order (20_memory.md R61): the memory controller
is the one the stores leave; every address outside them reads as before; and each stored byte is read
back where the decoder can store. The empty list: memory is unchanged. -/
def Stored (stores : List (Word × Byte)) (s t : State) : Prop :=
  t.mc = stores.foldl (fun m p => m.write p.1 p.2) s.mc ∧
    (∀ x, (∀ p ∈ stores, s.outside p.1 x) → t.memRead x = s.memRead x) ∧
    (∀ p ∈ stores, s.storable p.1 = true → t.memRead p.1 = p.2)

/-- Memory is unchanged: every byte reads as before, and so does every byte behind another page. -/
abbrev KeepsMemory (s t : State) : Prop := Stored [] s t

/-- The two stores of a 16-bit store at `a` (00_scope.md R14): the low byte first. -/
def wordAt (a w : Word) : List (Word × Byte) := [(a, lo8 w), (a + 1#16, hi8 w)]

/-- The two stores of `push16(w)` from `sp` (41_load16_exchange_block.md R139): the high byte first. -/
def pushedFrom (sp w : Word) : List (Word × Byte) := [(sp - 1#16, hi8 w), (sp - 2#16, lo8 w)]

/-! ### Whole effects: what changes, and that nothing else does -/

/-- SP, both index registers and everything of `KeepsRest` are unchanged. -/
def KeepsOthers (s t : State) : Prop := KeepsSp s t ∧ KeepsIndex s t ∧ KeepsRest s t

/-- The one register `r` takes `v`; nothing else changes but PC and the cycle count. -/
def LoadsReg (s : State) (r : Reg8) (v : Byte) (len : Word) (cycles : Nat) (t : State) : Prop :=
  t.reg8 r = v ∧ KeepsReg8 [r] s t ∧ KeepsFlags s t ∧ KeepsOthers s t ∧ KeepsMemory s t ∧
    EndsAt t (s.pc + len) cycles

/-- The pair `dd` takes `w`; nothing else changes but PC and the cycle count. -/
def LoadsPair (s : State) (dd : Pair) (w : Word) (len : Word) (cycles : Nat) (t : State) : Prop :=
  t.pair dd = w ∧ (∀ ee, ee ≠ dd → t.pair ee = s.pair ee) ∧ t.main.a = s.main.a ∧ KeepsFlags s t ∧
    KeepsIndex s t ∧ KeepsRest s t ∧ KeepsMemory s t ∧ EndsAt t (s.pc + len) cycles

/-- The index register `xy` takes `w`; nothing else changes but PC and the cycle count. -/
def LoadsIdx (s : State) (xy : IdxReg) (w : Word) (len : Word) (cycles : Nat) (t : State) : Prop :=
  t.idx xy = w ∧ (∀ z, z ≠ xy → t.idx z = s.idx z) ∧ KeepsReg8 [] s t ∧ KeepsFlags s t ∧ KeepsSp s t ∧
    KeepsRest s t ∧ KeepsMemory s t ∧ EndsAt t (s.pc + len) cycles

/-- These bytes are stored; no register and no flag changes. -/
def OnlyStores (s : State) (stores : List (Word × Byte)) (len : Word) (cycles : Nat) (t : State) : Prop :=
  Stored stores s t ∧ KeepsReg8 [] s t ∧ KeepsFlags s t ∧ KeepsOthers s t ∧ EndsAt t (s.pc + len) cycles

/-- `push16(w)`: SP falls by 2 and the two bytes are stored under it; no other register changes. -/
def PushesWord (s : State) (w : Word) (pc : Word) (cycles : Nat) (t : State) : Prop :=
  t.sp = s.sp - 2#16 ∧ Stored (pushedFrom s.sp w) s t ∧ KeepsReg8 [] s t ∧ KeepsFlags s t ∧ KeepsIndex s t ∧
    KeepsRest s t ∧ EndsAt t pc cycles

/-- Only PC and the cycle count change. -/
def OnlyJumps (s : State) (pc : Word) (cycles : Nat) (t : State) : Prop :=
  KeepsReg8 [] s t ∧ KeepsFlags s t ∧ KeepsOthers s t ∧ KeepsMemory s t ∧ EndsAt t pc cycles

/-- A takes `v`, F is written; no other register and no memory changes. -/
def WritesA (s : State) (v : Byte) (len : Word) (cycles : Nat) (t : State) : Prop :=
  t.main.a = v ∧ KeepsReg8 [.a] s t ∧ KeepsOthers s t ∧ KeepsMemory s t ∧ EndsAt t (s.pc + len) cycles

/-- The flags of `add8` (42_alu8_control.md R156) for the result `res`. -/
def AddFlags (t : State) (a b : Byte) (cin : Bool) (res : Byte) : Prop :=
  FlagsAre t (res.getLsbD 7) (res == 0#8)
    (decide (0x0F < a.toNat % 16 + b.toNat % 16 + cin.toNat))
    (decide (a.getLsbD 7 = b.getLsbD 7 ∧ res.getLsbD 7 ≠ a.getLsbD 7))
    false
    (decide (0xFF < a.toNat + b.toNat + cin.toNat))

/-- The flags of `sub8` (42_alu8_control.md R157) for the result `res`. -/
def SubFlags (t : State) (a b : Byte) (cin : Bool) (res : Byte) : Prop :=
  FlagsAre t (res.getLsbD 7) (res == 0#8)
    (decide (a.toNat % 16 < b.toNat % 16 + cin.toNat))
    (decide (a.getLsbD 7 ≠ b.getLsbD 7 ∧ res.getLsbD 7 ≠ a.getLsbD 7))
    true
    (decide (a.toNat < b.toNat + cin.toNat))

/-- ADD and ADC: A takes A + v + cin mod 256 with the flags of R156. -/
def AddsToA (s : State) (v : Byte) (cin : Bool) (len : Word) (cycles : Nat) (t : State) : Prop :=
  ∃ res : Byte, res.toNat = (s.main.a.toNat + v.toNat + cin.toNat) % 256 ∧ WritesA s res len cycles t ∧
    AddFlags t s.main.a v cin res

/-- SUB and SBC: A takes A - v - cin mod 256 with the flags of R157. -/
def SubsFromA (s : State) (v : Byte) (cin : Bool) (len : Word) (cycles : Nat) (t : State) : Prop :=
  ∃ res : Byte, (res.toNat : Int) = ((s.main.a.toNat : Int) - v.toNat - cin.toNat) % 256 ∧
    WritesA s res len cycles t ∧ SubFlags t s.main.a v cin res

/-- CP: the flags of A - v, and A unchanged (42_alu8_control.md R159). -/
def ComparesA (s : State) (v : Byte) (len : Word) (cycles : Nat) (t : State) : Prop :=
  ∃ res : Byte, (res.toNat : Int) = ((s.main.a.toNat : Int) - v.toNat) % 256 ∧
    WritesA s s.main.a len cycles t ∧ SubFlags t s.main.a v false res

/-- AND, XOR, OR: A takes `res` with the logic flags (42_alu8_control.md R158). -/
def LogicToA (s : State) (res : Byte) (h : Bool) (len : Word) (cycles : Nat) (t : State) : Prop :=
  WritesA s res len cycles t ∧ FlagsAre t (res.getLsbD 7) (res == 0#8) h (parity res) false false

/-- The flags of `inc8(v)` (42_alu8_control.md R160); C as before. -/
def IncFlags (s : State) (v : Byte) (t : State) : Prop :=
  FlagsAre t (decide (0x80 ≤ (v.toNat + 1) % 256)) (decide (v.toNat = 0xFF)) (decide (v.toNat % 16 = 0x0F))
    (decide (v.toNat = 0x7F)) false s.main.f.c

/-- The flags of `dec8(v)` (42_alu8_control.md R161); C as before. -/
def DecFlags (s : State) (v : Byte) (t : State) : Prop :=
  FlagsAre t (decide (0x80 ≤ (v.toNat + 255) % 256)) (decide (v.toNat = 1)) (decide (v.toNat % 16 = 0))
    (decide (v.toNat = 0x80)) true s.main.f.c

/-- The register `r` takes `v`, F is written; no other register and no memory changes. -/
def WritesReg (s : State) (r : Reg8) (v : Byte) (len : Word) (cycles : Nat) (t : State) : Prop :=
  t.reg8 r = v ∧ KeepsReg8 [r] s t ∧ KeepsOthers s t ∧ KeepsMemory s t ∧ EndsAt t (s.pc + len) cycles

/-- The byte `v` is stored at `a`, F is written; no register changes. -/
def WritesByte (s : State) (a : Word) (v : Byte) (len : Word) (cycles : Nat) (t : State) : Prop :=
  Stored [(a, v)] s t ∧ KeepsReg8 [] s t ∧ KeepsOthers s t ∧ EndsAt t (s.pc + len) cycles

/-- The flags of a CB or XYCB rotate or shift (44_rotate_bit.md R225-R245). -/
def RotateFlags (t : State) (res : Byte) (c : Bool) : Prop :=
  FlagsAre t (res.getLsbD 7) (res == 0#8) false (parity res) false c

/-- A rotate or shift of a register: the result, as a number, and the bit moved out. -/
def RotatesReg (s : State) (r : Reg8) (value : Nat) (c : Bool) (t : State) : Prop :=
  ∃ res : Byte, res.toNat = value ∧ WritesReg s r res 2#16 8 t ∧ RotateFlags t res c

/-- A rotate or shift of the byte at `a`: the result and the bit moved out, as functions of that byte. -/
def RotatesByte (s : State) (a : Word) (value : Byte → Nat) (out : Byte → Bool) (len : Word) (cycles : Nat)
    (t : State) : Prop :=
  ∃ res : Byte, res.toNat = value (s.memRead a) ∧ WritesByte s a res len cycles t ∧
    RotateFlags t res (out (s.memRead a))

/-- A rotate of A by RLCA, RLA, RRCA or RRA: S, Z and PV stay (44_rotate_bit.md R221-R224). -/
def RotatesA (s : State) (value : Nat) (c : Bool) (t : State) : Prop :=
  ∃ res : Byte, res.toNat = value ∧ WritesA s res 1#16 4 t ∧
    FlagsAre t s.main.f.s s.main.f.z false s.main.f.pv false c

/-- RLC: bit 7 goes to bit 0 and to C. -/
def rlcValue (v : Byte) : Nat := v.toNat * 2 % 256 + v.toNat / 128

/-- RRC: bit 0 goes to bit 7 and to C. -/
def rrcValue (v : Byte) : Nat := v.toNat / 2 + v.toNat % 2 * 128

/-- RL: the old carry goes to bit 0. -/
def rlValue (v : Byte) (c : Bool) : Nat := v.toNat * 2 % 256 + c.toNat

/-- RR: the old carry goes to bit 7. -/
def rrValue (v : Byte) (c : Bool) : Nat := v.toNat / 2 + c.toNat * 128

/-- SLA: 0 goes to bit 0. -/
def slaValue (v : Byte) : Nat := v.toNat * 2 % 256

/-- SRA: bit 7 stays. -/
def sraValue (v : Byte) : Nat := v.toNat / 2 + v.toNat / 128 * 128

/-- SRL: 0 goes to bit 7. -/
def srlValue (v : Byte) : Nat := v.toNat / 2

/-- Bit 7 of a byte, as the number comparison. -/
def topBit (v : Byte) : Bool := decide (128 ≤ v.toNat)

/-- Bit 0 of a byte. -/
def bottomBit (v : Byte) : Bool := decide (v.toNat % 2 = 1)

/-- The flags a BIT leaves (44_rotate_bit.md R248): Z, H, N, and C as before; S and PV are free. -/
def BitTestFlags (s : State) (bit : Bool) (t : State) : Prop :=
  t.main.f.z = !bit ∧ t.main.f.h = true ∧ t.main.f.n = false ∧ t.main.f.c = s.main.f.c

/-- BIT: only F, PC and the cycle count change. -/
def TestsBit (s : State) (bit : Bool) (len : Word) (cycles : Nat) (t : State) : Prop :=
  BitTestFlags s bit t ∧ KeepsReg8 [] s t ∧ KeepsOthers s t ∧ KeepsMemory s t ∧ EndsAt t (s.pc + len) cycles

/-- The correction DAA applies (42_alu8_control.md R201): 6 for the low digit, 0x60 for the high one. -/
def State.daaCorrection (s : State) : Nat :=
  (if s.main.f.h = true ∨ 9 < s.main.a.toNat % 16 then 6 else 0) +
    (if s.main.f.c = true ∨ 0x99 < s.main.a.toNat then 0x60 else 0)

/-- The condition codes (30_encoding.md R91). -/
def State.holds (s : State) : Cond → Bool
  | .nz => !s.main.f.z
  | .z => s.main.f.z
  | .nc => !s.main.f.c
  | .c => s.main.f.c
  | .po => !s.main.f.pv
  | .pe => s.main.f.pv
  | .p => !s.main.f.s
  | .m => s.main.f.s

/-- The address a relative branch goes to (30_encoding.md R81): PC + 2 plus the signed displacement. -/
def State.branch (s : State) (e : Byte) : Word := BitVec.ofInt 16 ((s.pc.toNat : Int) + 2 + e.toInt)

/-- The byte with bit `b` made `on`, every other bit as before. -/
def bitMade (b : BitVec 3) (on : Bool) (v res : Byte) : Prop :=
  ∀ k, k < 8 → res.getLsbD k = if k = b.toNat then on else v.getLsbD k

/-! ### Block instructions and I/O -/

/-- One iteration of LDI (`dir` = 1) or LDD (`dir` = -1): 41_load16_exchange_block.md R148, R150. -/
def CopiesByte (s : State) (dir : Word) (pc : Word) (cycles : Nat) (t : State) : Prop :=
  Stored [(s.de, s.memRead s.hl)] s t ∧ t.hl = s.hl + dir ∧ t.de = s.de + dir ∧ t.bc = s.bc - 1#16 ∧
    t.main.a = s.main.a ∧
    FlagsAre t s.main.f.s s.main.f.z false (decide (s.bc ≠ 1#16)) false s.main.f.c ∧
    KeepsOthers s t ∧ EndsAt t pc cycles

/-- One iteration of CPI (`dir` = 1) or CPD (`dir` = -1): 41_load16_exchange_block.md R152, R154. -/
def SearchesByte (s : State) (dir : Word) (pc : Word) (cycles : Nat) (t : State) : Prop :=
  t.hl = s.hl + dir ∧ t.bc = s.bc - 1#16 ∧ t.de = s.de ∧ t.main.a = s.main.a ∧
    (∃ res : Byte, (res.toNat : Int) = ((s.main.a.toNat : Int) - (s.memRead s.hl).toNat) % 256 ∧
      FlagsAre t (res.getLsbD 7) (decide (s.main.a = s.memRead s.hl))
        (decide (s.main.a.toNat % 16 < (s.memRead s.hl).toNat % 16)) (decide (s.bc ≠ 1#16)) true s.main.f.c) ∧
    KeepsOthers s t ∧ KeepsMemory s t ∧ EndsAt t pc cycles

/-- Everything of `KeepsOthers` but the I/O record. -/
def KeepsOthersButIo (s t : State) : Prop :=
  KeepsSp s t ∧ KeepsIndex s t ∧ KeepsAlternate s t ∧ KeepsIR s t ∧ KeepsControl s t ∧ KeepsHost s t

/-- One `IoRead(port)` that answered `v` took place: the host's next answer is used up and the event is the
latest of the record (46_io.md R271). -/
def ReadsPort (s : State) (port : Word) (v : Byte) (t : State) : Prop :=
  v = s.ioAnswer port ∧ t.ioInput = s.ioInput.tail ∧ t.ioEvents = s.ioEvents ++ [.read port v]

/-- One `IoWrite(port, v)` took place (46_io.md R271). -/
def WritesPort (s : State) (port : Word) (v : Byte) (t : State) : Prop :=
  t.ioInput = s.ioInput ∧ t.ioEvents = s.ioEvents ++ [.write port v]

/-- The flags of block I/O that are not free: Z tells whether the new B is 0, and N is set
(46_io.md R274). -/
def BlockIoFlags (s t : State) : Prop := t.main.f.z = decide (s.main.b = 1#8) ∧ t.main.f.n = true

/-- One iteration of INI or IND (46_io.md R274, R276): the port is BC before the decrement. -/
def InputsByte (s : State) (dir : Word) (pc : Word) (cycles : Nat) (t : State) : Prop :=
  ∃ v, ReadsPort s s.bc v t ∧ Stored [(s.hl, v)] s t ∧ t.main.b = s.main.b - 1#8 ∧ t.hl = s.hl + dir ∧
    KeepsReg8 [.b, .h, .l] s t ∧ BlockIoFlags s t ∧ KeepsOthersButIo s t ∧ EndsAt t pc cycles

/-- One iteration of OUTI or OUTD (46_io.md R280, R282): the port is BC after the decrement. -/
def OutputsByte (s : State) (dir : Word) (pc : Word) (cycles : Nat) (t : State) : Prop :=
  WritesPort s (pack (s.main.b - 1#8) s.main.c) (s.memRead s.hl) t ∧ KeepsMemory s t ∧
    t.main.b = s.main.b - 1#8 ∧ t.hl = s.hl + dir ∧ KeepsReg8 [.b, .h, .l] s t ∧ BlockIoFlags s t ∧
    KeepsOthersButIo s t ∧ EndsAt t pc cycles

/-- Where a repeating block instruction ends (30_encoding.md R105): at PC for 21 cycles if it goes on, else
2 bytes on for 16. -/
def Repeats (again : Bool) (s : State) (effect : Word → Nat → State → Prop) (t : State) : Prop :=
  if again then effect s.pc 21 t else effect (s.pc + 2#16) 16 t

/-! ### Interrupts and the step -/

/-- The image byte at an offset, or P_ROM_OOB beyond the image (20_memory.md R57). -/
def State.imageByte (s : State) (off : Nat) : Byte :=
  if h : off < s.mc.image.length then s.mc.image[off] else lookupByte s.cfg.romOob.dflt s.cfg.romOob.cells off

/-- The page mask (20_memory.md R58). -/
def State.mask (s : State) : Byte := if 0x8000 < s.mc.image.length then 0x3F#8 else 0x1F#8

/-- The page selected for slot k (20_memory.md R58), by the mapper registers of 10_state.md R39 and R40. -/
def State.pageOf (s : State) (k : Nat) : Nat :=
  match s.mc.variant with
  | .standard => (s.memRead (BitVec.ofNat 16 (0xFFFD + k)) &&& s.mask).toNat
  | .alternateChecksum =>
    if k = 0 then (s.mc.apage0 &&& s.mask).toNat
    else if k = 1 then (s.mc.apage1 &&& s.mask).toNat
    else (s.mc.apage2 &&& s.mask).toNat

/-- Slot 2 is cartridge RAM (20_memory.md R58): bit 3 of RAM-control, in the Standard variant. -/
def State.slot2IsRam (s : State) : Prop :=
  s.mc.variant = .standard ∧ (s.memRead 0xFFFC#16).toNat / 8 % 2 = 1

/-- One refresh increment (10_state.md R31). -/
def refreshed (r : Byte) : Byte := (r &&& 0x80#8) ||| ((r + 1#8) &&& 0x7F#8)

/-- R after the increments of a step that fetches (10_state.md R31): one, and under PerM1 a second one
after a first byte CB, DD, ED or FD. -/
def State.fetchedR (s : State) : Byte :=
  if s.cfg.rInc = .perM1 ∧ s.memRead s.pc ∈ [0xCB#8, 0xDD#8, 0xED#8, 0xFD#8] then refreshed (refreshed s.regR)
  else refreshed s.regR

/-- The machine fetches and decodes in this step: no fault, no interrupt accepted, not halted
(60_exceptions.md R293). -/
def State.runs (s : State) : Prop :=
  s.fault = none ∧ s.halted = false ∧
    (s.cfg.hasInterrupts = true → s.nmiPending = false ∧ ¬ (s.intLine = true ∧ s.iff1 = true ∧ s.eiDelay = false))

/-- The four bytes from PC on, as the decoder of instructions sees them. -/
def State.fetchesAs (s : State) (r : Except DecodeError Instr) : Prop :=
  decode (s.memRead s.pc) (s.memRead (s.pc + 1#16)) (s.memRead (s.pc + 2#16)) (s.memRead (s.pc + 3#16)) = r

/-- A maskable interrupt is accepted in this step (60_exceptions.md R288). -/
def State.takesInt (s : State) : Prop :=
  s.cfg.hasInterrupts = true ∧ s.fault = none ∧ s.nmiPending = false ∧ s.intLine = true ∧ s.iff1 = true ∧
    s.eiDelay = false

/-- What an accepted interrupt does besides the choice of handler and IFF2 (60_exceptions.md R289-R291,
R294): PC is pushed, execution goes on at `handler`, the halt ends, IFF1 is cleared, R counts once. -/
def EntersHandler (s : State) (handler : Word) (cycles : Nat) (t : State) : Prop :=
  Stored (pushedFrom s.sp s.pc) s t ∧ t.sp = s.sp - 2#16 ∧ EndsAt t handler cycles ∧ t.halted = false ∧
    t.iff1 = false ∧ t.regR = refreshed s.regR ∧ t.regI = s.regI ∧ t.im = s.im ∧ t.fault = none ∧
    KeepsReg8 [] s t ∧ KeepsFlags s t ∧ KeepsIndex s t ∧ KeepsAlternate s t ∧ KeepsIo s t ∧
    t.intLine = s.intLine ∧ t.intData = s.intData ∧ t.cfg = s.cfg

/-! ### The invariant -/

/-- The two byte stores are in canonical form and hold no cell that does not exist (10_state.md R38). -/
def MemCtl.sound (m : MemCtl) : Prop :=
  Memory.wf m.ram = true ∧ Memory.within 0x2000 m.ram = true ∧
    Memory.wf m.cram = true ∧ Memory.within 0x8000 m.cram = true

/-- What every step keeps, from every state that has it: the stores stay canonical; no step costs more
than 23 cycles; a set fault is the one at PC, with the cycle count 0 (60_exceptions.md R285); IFF1 is set
only while IFF2 is (60_exceptions.md R289-R291, R296); and ei_delay is set only just after EI, so with
both IFFs set, not halted and with P_HAS_INTERRUPTS (60_exceptions.md R287). -/
def State.Inv (s : State) : Prop :=
  s.mc.sound ∧ s.lastCycles ≤ 23 ∧
    (∀ info, s.fault = some info → info.pc = s.pc ∧ s.lastCycles = 0) ∧
    (s.iff1 = true → s.iff2 = true) ∧
    (s.eiDelay = true → s.iff1 = true ∧ s.halted = false ∧ s.cfg.hasInterrupts = true)

/-! ### Runs of Ok steps -/

/-- `n` steps that all return Ok, and the sum of their cycle counts (60_exceptions.md R295). -/
def runOk (n : Nat) (s : State) : Option (State × Nat) :=
  match n with
  | 0 => some (s, 0)
  | k + 1 =>
    match s.hostStep with
    | (.ok, t) =>
      match runOk k t with
      | some (u, cost) => some (u, t.lastCycles + cost)
      | none => none
    | (_, _) => none

end Sys2Proof.Machine
end

