-- ==== Sys2Proof/Certificates/Slice0/Obligations.lean ====
section
/-! DEFINITION. The statements for the provers, each named for what it states, over the words of
Safety.lean. A statement in the form `Completes i s post` says that `exec i s` answers a next state. -/

open Sys2Proof Sys2Proof.Machine

/-! ### 8-bit loads (40_load8.md) -/

/-- R110-R112, R115-R117, R121: the 8-bit loads into a register complete, set that register to the byte
named, and change nothing else but PC and the cycle count. -/
def Obligations.ByteLoadsSetOneRegister : Prop := ∀ s : State,
  (∀ r q, Completes (.ldRR r q) s (LoadsReg s r (s.reg8 q) 1#16 4)) ∧
  (∀ r n, Completes (.ldRN r n) s (LoadsReg s r n 2#16 7)) ∧
  (∀ r, Completes (.ldRIndHl r) s (LoadsReg s r (s.memRead s.hl) 1#16 7)) ∧
  (∀ r xy d, Completes (.ldRIdx r xy d) s (LoadsReg s r (s.memRead (s.idxAddr xy d)) 3#16 19)) ∧
  Completes .ldAIndBc s (LoadsReg s .a (s.memRead s.bc) 1#16 7) ∧
  Completes .ldAIndDe s (LoadsReg s .a (s.memRead s.de) 1#16 7) ∧
  (∀ nn, Completes (.ldAIndNn nn) s (LoadsReg s .a (s.memRead nn) 3#16 13))

/-- R113, R114, R118-R120, R122, R123: the 8-bit stores complete, store that one byte at that address, and
change no register and no flag. -/
def Obligations.ByteStoresWriteOneByte : Prop := ∀ s : State,
  (∀ r, Completes (.ldIndHlR r) s (OnlyStores s [(s.hl, s.reg8 r)] 1#16 7)) ∧
  (∀ n, Completes (.ldIndHlN n) s (OnlyStores s [(s.hl, n)] 2#16 10)) ∧
  Completes .ldIndBcA s (OnlyStores s [(s.bc, s.main.a)] 1#16 7) ∧
  Completes .ldIndDeA s (OnlyStores s [(s.de, s.main.a)] 1#16 7) ∧
  (∀ nn, Completes (.ldIndNnA nn) s (OnlyStores s [(nn, s.main.a)] 3#16 13)) ∧
  (∀ xy d r, Completes (.ldIdxR xy d r) s (OnlyStores s [(s.idxAddr xy d, s.reg8 r)] 3#16 19)) ∧
  (∀ xy d n, Completes (.ldIdxN xy d n) s (OnlyStores s [(s.idxAddr xy d, n)] 4#16 19))

/-- R124-R128: LD A,I and LD A,R load A and set S, Z, H, PV (from IFF2) and N, leaving C; LD I,A and
LD R,A copy A and change nothing else but PC and the cycle count. -/
def Obligations.SpecialRegisterLoads : Prop := ∀ s : State,
  Completes .ldAI s (fun t => WritesA s s.regI 2#16 9 t ∧
    FlagsAre t (s.regI.getLsbD 7) (s.regI == 0#8) false s.iff2 false s.main.f.c) ∧
  Completes .ldAR s (fun t => WritesA s s.regR 2#16 9 t ∧
    FlagsAre t (s.regR.getLsbD 7) (s.regR == 0#8) false s.iff2 false s.main.f.c) ∧
  Completes .ldIA s (fun t => t.regI = s.main.a ∧ t.regR = s.regR ∧ KeepsReg8 [] s t ∧ KeepsFlags s t ∧
    KeepsSp s t ∧ KeepsIndex s t ∧ KeepsAlternate s t ∧ KeepsControl s t ∧ KeepsIo s t ∧ KeepsHost s t ∧
    KeepsMemory s t ∧ EndsAt t (s.pc + 2#16) 9) ∧
  Completes .ldRA s (fun t => t.regR = s.main.a ∧ t.regI = s.regI ∧ KeepsReg8 [] s t ∧ KeepsFlags s t ∧
    KeepsSp s t ∧ KeepsIndex s t ∧ KeepsAlternate s t ∧ KeepsControl s t ∧ KeepsIo s t ∧ KeepsHost s t ∧
    KeepsMemory s t ∧ EndsAt t (s.pc + 2#16) 9)

/-! ### 16-bit loads, stack, exchanges, block instructions (41_load16_exchange_block.md) -/

/-- R129-R133, R137, R138: the 16-bit loads complete, set the pair, index register or SP to the word named
(little-endian from memory), and change nothing else but PC and the cycle count. -/
def Obligations.WordLoadsSetOneRegister : Prop := ∀ s : State,
  (∀ dd nn, Completes (.ldDdNn dd nn) s (LoadsPair s dd nn 3#16 10)) ∧
  (∀ xy nn, Completes (.ldXyNn xy nn) s (LoadsIdx s xy nn 4#16 14)) ∧
  (∀ nn, Completes (.ldHlIndNn nn) s
    (LoadsPair s .hl (pack (s.memRead (nn + 1#16)) (s.memRead nn)) 3#16 16)) ∧
  (∀ dd nn, Completes (.ldDdIndNn dd nn) s
    (LoadsPair s dd (pack (s.memRead (nn + 1#16)) (s.memRead nn)) 4#16 20)) ∧
  (∀ xy nn, Completes (.ldXyIndNn xy nn) s
    (LoadsIdx s xy (pack (s.memRead (nn + 1#16)) (s.memRead nn)) 4#16 20)) ∧
  Completes .ldSpHl s (LoadsPair s .sp s.hl 1#16 6) ∧
  (∀ xy, Completes (.ldSpXy xy) s (LoadsPair s .sp (s.idx xy) 2#16 10))

/-- R134-R136: the 16-bit stores complete, store the low byte at nn and the high byte at nn + 1 mod 2^16,
and change no register and no flag. -/
def Obligations.WordStoresWriteTwoBytes : Prop := ∀ s : State,
  (∀ nn, Completes (.ldIndNnHl nn) s (OnlyStores s (wordAt nn s.hl) 3#16 16)) ∧
  (∀ nn dd, Completes (.ldIndNnDd nn dd) s (OnlyStores s (wordAt nn (s.pair dd)) 4#16 20)) ∧
  (∀ nn xy, Completes (.ldIndNnXy nn xy) s (OnlyStores s (wordAt nn (s.idx xy)) 4#16 20))

/-- R139, R140: PUSH completes; SP falls by 2, the high byte is stored at SP - 1 and the low byte at SP - 2;
nothing else changes but PC and the cycle count. -/
def Obligations.PushesStoreAWord : Prop := ∀ s : State,
  (∀ qq, Completes (.pushQq qq) s (PushesWord s (s.stackPair qq) (s.pc + 1#16) 11)) ∧
  (∀ xy, Completes (.pushXy xy) s (PushesWord s (s.idx xy) (s.pc + 2#16) 15))

/-- R141, R142: POP completes; the pair takes the word at SP, low byte first (AF: A and all eight bits of
F), SP rises by 2, and nothing else changes but PC and the cycle count. -/
def Obligations.PopsLoadAWord : Prop := ∀ s : State,
  (∀ qq, Completes (.popQq qq) s (fun t =>
    t.stackPair qq = pack (s.memRead (s.sp + 1#16)) (s.memRead s.sp) ∧
    (∀ rr, rr ≠ qq → t.stackPair rr = s.stackPair rr) ∧ t.draws = s.draws ∧ t.sp = s.sp + 2#16 ∧
    KeepsIndex s t ∧ KeepsRest s t ∧ KeepsMemory s t ∧ EndsAt t (s.pc + 1#16) 10)) ∧
  (∀ xy, Completes (.popXy xy) s (fun t =>
    t.idx xy = pack (s.memRead (s.sp + 1#16)) (s.memRead s.sp) ∧ (∀ z, z ≠ xy → t.idx z = s.idx z) ∧
    t.sp = s.sp + 2#16 ∧ KeepsReg8 [] s t ∧ KeepsFlags s t ∧ KeepsRest s t ∧ KeepsMemory s t ∧
    EndsAt t (s.pc + 2#16) 14))

/-- Where both stack bytes can be stored, PUSH qq then POP rr completes, moves the pair qq, all sixteen
bits of it, into rr, and leaves SP as it was (R139, R141). -/
def Obligations.PushThenPopMovesThePair : Prop := ∀ (s : State) (qq rr : StackPair),
  s.storable (s.sp - 1#16) = true → s.storable (s.sp - 2#16) = true →
  ∃ t u, exec (.pushQq qq) s = .next t ∧ exec (.popQq rr) t = .next u ∧
    u.stackPair rr = s.stackPair qq ∧ u.sp = s.sp

/-- R143-R145: EX DE,HL, EX AF,AF' and EXX complete, exchange exactly the registers they name, and change
nothing else but PC and the cycle count. -/
def Obligations.ExchangesSwap : Prop := ∀ s : State,
  Completes .exDeHl s (fun t => t.de = s.hl ∧ t.hl = s.de ∧ KeepsReg8 [.d, .e, .h, .l] s t ∧ KeepsFlags s t ∧
    KeepsOthers s t ∧ KeepsMemory s t ∧ EndsAt t (s.pc + 1#16) 4) ∧
  Completes .exAfAf s (fun t => t.main.a = s.alt.a ∧ t.main.f = s.alt.f ∧ t.alt.a = s.main.a ∧
    t.alt.f = s.main.f ∧ t.draws = s.draws ∧ KeepsReg8 [.a] s t ∧ t.alt.bc = s.alt.bc ∧ t.alt.de = s.alt.de ∧
    t.alt.hl = s.alt.hl ∧ KeepsSp s t ∧ KeepsIndex s t ∧ KeepsIR s t ∧ KeepsControl s t ∧ KeepsIo s t ∧
    KeepsHost s t ∧ KeepsMemory s t ∧ EndsAt t (s.pc + 1#16) 4) ∧
  Completes .exx s (fun t => t.bc = s.alt.bc ∧ t.de = s.alt.de ∧ t.hl = s.alt.hl ∧ t.alt.bc = s.bc ∧
    t.alt.de = s.de ∧ t.alt.hl = s.hl ∧ t.main.a = s.main.a ∧ t.alt.a = s.alt.a ∧ t.alt.f = s.alt.f ∧
    KeepsFlags s t ∧ KeepsSp s t ∧ KeepsIndex s t ∧ KeepsIR s t ∧ KeepsControl s t ∧ KeepsIo s t ∧
    KeepsHost s t ∧ KeepsMemory s t ∧ EndsAt t (s.pc + 1#16) 4)

/-- R146, R147: EX (SP),HL and EX (SP),xy complete; the register takes the word at SP, its old value is
stored there, high byte first, SP stays, and nothing else changes but PC and the cycle count. -/
def Obligations.StackExchangesSwap : Prop := ∀ s : State,
  Completes .exIndSpHl s (fun t =>
    Stored [(s.sp + 1#16, hi8 s.hl), (s.sp, lo8 s.hl)] s t ∧
    t.hl = pack (s.memRead (s.sp + 1#16)) (s.memRead s.sp) ∧ KeepsReg8 [.h, .l] s t ∧ KeepsFlags s t ∧
    KeepsOthers s t ∧ EndsAt t (s.pc + 1#16) 19) ∧
  (∀ xy, Completes (.exIndSpXy xy) s (fun t =>
    Stored [(s.sp + 1#16, hi8 (s.idx xy)), (s.sp, lo8 (s.idx xy))] s t ∧
    t.idx xy = pack (s.memRead (s.sp + 1#16)) (s.memRead s.sp) ∧ (∀ z, z ≠ xy → t.idx z = s.idx z) ∧
    KeepsReg8 [] s t ∧ KeepsFlags s t ∧ KeepsSp s t ∧ KeepsRest s t ∧ EndsAt t (s.pc + 2#16) 23))

/-- R148-R151: each of LDI, LDIR, LDD, LDDR completes one iteration: a byte goes from (HL) to (DE), both
pointers move, BC counts down; H and N are cleared, PV tells whether BC is not 0, S, Z, C stay; LDIR and
LDDR stay at PC for 21 cycles while the new BC is not 0, else end 2 bytes on for 16. -/
def Obligations.BlockCopiesMoveOneByte : Prop := ∀ s : State,
  Completes .ldi s (CopiesByte s 1#16 (s.pc + 2#16) 16) ∧
  Completes .ldir s (Repeats (decide (s.bc ≠ 1#16)) s (CopiesByte s 1#16)) ∧
  Completes .ldd s (CopiesByte s 0xFFFF#16 (s.pc + 2#16) 16) ∧
  Completes .lddr s (Repeats (decide (s.bc ≠ 1#16)) s (CopiesByte s 0xFFFF#16))

/-- R152-R155: each of CPI, CPIR, CPD, CPDR completes one iteration: (HL) is compared with A, HL moves, BC
counts down; S, Z, H as of A - (HL), PV tells whether BC is not 0, N is set, C stays; CPIR and CPDR go on
while the new BC is not 0 and the bytes differ. -/
def Obligations.BlockSearchesCompareOneByte : Prop := ∀ s : State,
  Completes .cpi s (SearchesByte s 1#16 (s.pc + 2#16) 16) ∧
  Completes .cpir s (Repeats (decide (s.bc ≠ 1#16 ∧ s.main.a ≠ s.memRead s.hl)) s (SearchesByte s 1#16)) ∧
  Completes .cpd s (SearchesByte s 0xFFFF#16 (s.pc + 2#16) 16) ∧
  Completes .cpdr s (Repeats (decide (s.bc ≠ 1#16 ∧ s.main.a ≠ s.memRead s.hl)) s (SearchesByte s 0xFFFF#16))

/-! ### 8-bit arithmetic and logic, control (42_alu8_control.md) -/

/-- R156, R163-R170: ADD and ADC in every form complete: A takes the sum mod 256 with the flags of add8, and
nothing else changes but PC and the cycle count. -/
def Obligations.AddsSetAAndFlags : Prop := ∀ s : State,
  (∀ r, Completes (.addAR r) s (AddsToA s (s.reg8 r) false 1#16 4)) ∧
  (∀ n, Completes (.addAN n) s (AddsToA s n false 2#16 7)) ∧
  Completes .addAIndHl s (AddsToA s (s.memRead s.hl) false 1#16 7) ∧
  (∀ xy d, Completes (.addAIdx xy d) s (AddsToA s (s.memRead (s.idxAddr xy d)) false 3#16 19)) ∧
  (∀ r, Completes (.adcAR r) s (AddsToA s (s.reg8 r) s.main.f.c 1#16 4)) ∧
  (∀ n, Completes (.adcAN n) s (AddsToA s n s.main.f.c 2#16 7)) ∧
  Completes .adcAIndHl s (AddsToA s (s.memRead s.hl) s.main.f.c 1#16 7) ∧
  (∀ xy d, Completes (.adcAIdx xy d) s (AddsToA s (s.memRead (s.idxAddr xy d)) s.main.f.c 3#16 19))

/-- R157, R171-R178: SUB and SBC in every form complete: A takes the difference mod 256 with the flags of
sub8, and nothing else changes but PC and the cycle count. -/
def Obligations.SubtractsSetAAndFlags : Prop := ∀ s : State,
  (∀ r, Completes (.subR r) s (SubsFromA s (s.reg8 r) false 1#16 4)) ∧
  (∀ n, Completes (.subN n) s (SubsFromA s n false 2#16 7)) ∧
  Completes .subIndHl s (SubsFromA s (s.memRead s.hl) false 1#16 7) ∧
  (∀ xy d, Completes (.subIdx xy d) s (SubsFromA s (s.memRead (s.idxAddr xy d)) false 3#16 19)) ∧
  (∀ r, Completes (.sbcAR r) s (SubsFromA s (s.reg8 r) s.main.f.c 1#16 4)) ∧
  (∀ n, Completes (.sbcAN n) s (SubsFromA s n s.main.f.c 2#16 7)) ∧
  Completes .sbcAIndHl s (SubsFromA s (s.memRead s.hl) s.main.f.c 1#16 7) ∧
  (∀ xy d, Completes (.sbcAIdx xy d) s (SubsFromA s (s.memRead (s.idxAddr xy d)) s.main.f.c 3#16 19))

/-- R158, R179-R190: AND, XOR, OR in every form complete: A takes the bitwise result with the logic flags
(H set by AND only), and nothing else changes but PC and the cycle count. -/
def Obligations.LogicSetsAAndFlags : Prop := ∀ s : State,
  (∀ r, Completes (.andR r) s (LogicToA s (s.main.a &&& s.reg8 r) true 1#16 4)) ∧
  (∀ n, Completes (.andN n) s (LogicToA s (s.main.a &&& n) true 2#16 7)) ∧
  Completes .andIndHl s (LogicToA s (s.main.a &&& s.memRead s.hl) true 1#16 7) ∧
  (∀ xy d, Completes (.andIdx xy d) s (LogicToA s (s.main.a &&& s.memRead (s.idxAddr xy d)) true 3#16 19)) ∧
  (∀ r, Completes (.xorR r) s (LogicToA s (s.main.a ^^^ s.reg8 r) false 1#16 4)) ∧
  (∀ n, Completes (.xorN n) s (LogicToA s (s.main.a ^^^ n) false 2#16 7)) ∧
  Completes .xorIndHl s (LogicToA s (s.main.a ^^^ s.memRead s.hl) false 1#16 7) ∧
  (∀ xy d, Completes (.xorIdx xy d) s (LogicToA s (s.main.a ^^^ s.memRead (s.idxAddr xy d)) false 3#16 19)) ∧
  (∀ r, Completes (.orR r) s (LogicToA s (s.main.a ||| s.reg8 r) false 1#16 4)) ∧
  (∀ n, Completes (.orN n) s (LogicToA s (s.main.a ||| n) false 2#16 7)) ∧
  Completes .orIndHl s (LogicToA s (s.main.a ||| s.memRead s.hl) false 1#16 7) ∧
  (∀ xy d, Completes (.orIdx xy d) s (LogicToA s (s.main.a ||| s.memRead (s.idxAddr xy d)) false 3#16 19))

/-- R159, R191-R194: CP in every form completes: the flags of SUB with the same operand, A unchanged, and
nothing else changes but PC and the cycle count. -/
def Obligations.ComparesSetFlagsOnly : Prop := ∀ s : State,
  (∀ r, Completes (.cpR r) s (ComparesA s (s.reg8 r) 1#16 4)) ∧
  (∀ n, Completes (.cpN n) s (ComparesA s n 2#16 7)) ∧
  Completes .cpIndHl s (ComparesA s (s.memRead s.hl) 1#16 7) ∧
  (∀ xy d, Completes (.cpIdx xy d) s (ComparesA s (s.memRead (s.idxAddr xy d)) 3#16 19))

/-- R160, R161, R195-R200: INC and DEC of a register and of the byte at (HL) and (xy+d) complete; the
operand changes by 1 mod 256, the flags are those of inc8 and dec8, C stays, and nothing else changes but
PC and the cycle count. -/
def Obligations.IncAndDecChangeTheOperand : Prop := ∀ s : State,
  (∀ r, Completes (.incR r) s (fun t =>
    WritesReg s r (s.reg8 r + 1#8) 1#16 4 t ∧ IncFlags s (s.reg8 r) t)) ∧
  Completes .incIndHl s (fun t =>
    WritesByte s s.hl (s.memRead s.hl + 1#8) 1#16 11 t ∧ IncFlags s (s.memRead s.hl) t) ∧
  (∀ xy d, Completes (.incIdx xy d) s (fun t =>
    WritesByte s (s.idxAddr xy d) (s.memRead (s.idxAddr xy d) + 1#8) 3#16 23 t ∧
    IncFlags s (s.memRead (s.idxAddr xy d)) t)) ∧
  (∀ r, Completes (.decR r) s (fun t =>
    WritesReg s r (s.reg8 r - 1#8) 1#16 4 t ∧ DecFlags s (s.reg8 r) t)) ∧
  Completes .decIndHl s (fun t =>
    WritesByte s s.hl (s.memRead s.hl - 1#8) 1#16 11 t ∧ DecFlags s (s.memRead s.hl) t) ∧
  (∀ xy d, Completes (.decIdx xy d) s (fun t =>
    WritesByte s (s.idxAddr xy d) (s.memRead (s.idxAddr xy d) - 1#8) 3#16 23 t ∧
    DecFlags s (s.memRead (s.idxAddr xy d)) t))

/-- PV after ADD, ADC, SUB, SBC with an immediate operand is signed overflow: it is set exactly where the
result, computed on A and the operand as signed numbers with the carry, leaves the range -128 to 127
(R156, R157). -/
def Obligations.OverflowFlagIsSignedOverflow : Prop := ∀ (s : State) (n : Byte),
  Completes (.addAN n) s (fun t =>
    t.main.f.pv = !decide (-128 ≤ s.main.a.toInt + n.toInt ∧ s.main.a.toInt + n.toInt ≤ 127)) ∧
  Completes (.adcAN n) s (fun t =>
    t.main.f.pv = !decide (-128 ≤ s.main.a.toInt + n.toInt + s.main.f.c.toNat ∧
      s.main.a.toInt + n.toInt + s.main.f.c.toNat ≤ 127)) ∧
  Completes (.subN n) s (fun t =>
    t.main.f.pv = !decide (-128 ≤ s.main.a.toInt - n.toInt ∧ s.main.a.toInt - n.toInt ≤ 127)) ∧
  Completes (.sbcAN n) s (fun t =>
    t.main.f.pv = !decide (-128 ≤ s.main.a.toInt - n.toInt - s.main.f.c.toNat ∧
      s.main.a.toInt - n.toInt - s.main.f.c.toNat ≤ 127))

/-- R201: DAA completes; A is corrected by 0x06 and 0x60 as the low digit, the value, H and C ask, up after
an addition and down after a subtraction; S, Z, PV (parity) from A, N stays, C is never cleared; nothing
else changes but PC and the cycle count. -/
def Obligations.DaaAdjusts : Prop := ∀ s : State,
  Completes .daa s (fun t => ∃ res : Byte,
    (res.toNat : Int) = (if s.main.f.n then (s.main.a.toNat : Int) - s.daaCorrection
      else s.main.a.toNat + s.daaCorrection) % 256 ∧
    WritesA s res 1#16 4 t ∧
    FlagsAre t (res.getLsbD 7) (res == 0#8)
      (if s.main.f.n then s.main.f.h && decide (s.main.a.toNat % 16 < 6)
        else decide (9 < s.main.a.toNat % 16))
      (parity res) s.main.f.n (s.main.f.c || decide (0x99 < s.main.a.toNat)))

/-- Adding two decimal numbers below 100 held as two digits each, then DAA, completes and leaves the two
digits of the sum mod 100 in A and the hundred in C (R156, R201). -/
def Obligations.DaaMakesDecimalAddition : Prop := ∀ (s : State) (x y : Nat), x < 100 → y < 100 →
  s.main.a.toNat = x / 10 * 16 + x % 10 →
  ∃ t u, exec (.addAN (BitVec.ofNat 8 (y / 10 * 16 + y % 10))) s = .next t ∧ exec .daa t = .next u ∧
    u.main.a.toNat = (x + y) % 100 / 10 * 16 + (x + y) % 100 % 10 ∧ u.main.f.c = decide (100 ≤ x + y)

/-- R202-R205: CPL, NEG, CCF and SCF complete with the results and flags of their rules, and change nothing
else but PC and the cycle count. -/
def Obligations.AccumulatorAndCarryOperations : Prop := ∀ s : State,
  Completes .cpl s (fun t => WritesA s (~~~s.main.a) 1#16 4 t ∧
    FlagsAre t s.main.f.s s.main.f.z true s.main.f.pv true s.main.f.c) ∧
  Completes .neg s (fun t => ∃ res : Byte, (res.toNat : Int) = (-(s.main.a.toNat : Int)) % 256 ∧
    WritesA s res 2#16 8 t ∧ FlagsAre t (res.getLsbD 7) (res == 0#8) (decide (s.main.a.toNat % 16 ≠ 0))
      (decide (s.main.a = 0x80#8)) true (decide (s.main.a ≠ 0#8))) ∧
  Completes .ccf s (fun t => WritesA s s.main.a 1#16 4 t ∧
    FlagsAre t s.main.f.s s.main.f.z s.main.f.c s.main.f.pv false (!s.main.f.c)) ∧
  Completes .scf s (fun t => WritesA s s.main.a 1#16 4 t ∧
    FlagsAre t s.main.f.s s.main.f.z false s.main.f.pv false true)

/-- R206-R212: NOP, HALT, DI, EI and IM 0, 1, 2 complete; HALT sets halted, DI and EI write both IFFs (EI
ei_delay too, with P_HAS_INTERRUPTS), IM n the mode; nothing else changes but PC and the cycle count. -/
def Obligations.ControlInstructions : Prop := ∀ s : State,
  Completes .nop s (OnlyJumps s (s.pc + 1#16) 4) ∧
  Completes .halt s (fun t => t.halted = true ∧ OnlyJumps s (s.pc + 1#16) 4 { t with halted := s.halted }) ∧
  Completes .di s (fun t => t.iff1 = false ∧ t.iff2 = false ∧
    OnlyJumps s (s.pc + 1#16) 4 { t with iff1 := s.iff1, iff2 := s.iff2 }) ∧
  Completes .ei s (fun t => t.iff1 = true ∧ t.iff2 = true ∧
    t.eiDelay = (if s.cfg.hasInterrupts then true else s.eiDelay) ∧
    OnlyJumps s (s.pc + 1#16) 4 { t with iff1 := s.iff1, iff2 := s.iff2, eiDelay := s.eiDelay }) ∧
  Completes .im0 s (fun t => t.im = .mode0 ∧ OnlyJumps s (s.pc + 2#16) 8 { t with im := s.im }) ∧
  Completes .im1 s (fun t => t.im = .mode1 ∧ OnlyJumps s (s.pc + 2#16) 8 { t with im := s.im }) ∧
  Completes .im2 s (fun t => t.im = .mode2 ∧ OnlyJumps s (s.pc + 2#16) 8 { t with im := s.im })

/-! ### 16-bit arithmetic (43_alu16.md) -/

/-- R213, R216: ADD HL,ss and ADD xy,pp complete: the sum mod 2^16, H and C the carries out of bits 11 and
15, N cleared, S, Z, PV unchanged, and nothing else changes but PC and the cycle count. -/
def Obligations.WordAddsSetSumAndCarries : Prop := ∀ s : State,
  (∀ ss, Completes (.addHlSs ss) s (fun t =>
    t.hl.toNat = (s.hl.toNat + (s.pair ss).toNat) % 0x10000 ∧ KeepsReg8 [.h, .l] s t ∧
    FlagsAre t s.main.f.s s.main.f.z (decide (0x1000 ≤ s.hl.toNat % 0x1000 + (s.pair ss).toNat % 0x1000))
      s.main.f.pv false (decide (0x10000 ≤ s.hl.toNat + (s.pair ss).toNat)) ∧
    KeepsOthers s t ∧ KeepsMemory s t ∧ EndsAt t (s.pc + 1#16) 11)) ∧
  (∀ xy pp, Completes (.addXyPp xy pp) s (fun t =>
    (t.idx xy).toNat = ((s.idx xy).toNat + (s.idxPair xy pp).toNat) % 0x10000 ∧
    (∀ z, z ≠ xy → t.idx z = s.idx z) ∧ KeepsReg8 [] s t ∧
    FlagsAre t s.main.f.s s.main.f.z
      (decide (0x1000 ≤ (s.idx xy).toNat % 0x1000 + (s.idxPair xy pp).toNat % 0x1000))
      s.main.f.pv false (decide (0x10000 ≤ (s.idx xy).toNat + (s.idxPair xy pp).toNat)) ∧
    KeepsSp s t ∧ KeepsRest s t ∧ KeepsMemory s t ∧ EndsAt t (s.pc + 2#16) 15))

/-- R214, R215: ADC HL,ss and SBC HL,ss complete: HL takes the sum or difference with the carry mod 2^16,
S and Z of the 16-bit result, H from bit 11, PV signed overflow, N, and C the carry or borrow; nothing
else changes but PC and the cycle count. -/
def Obligations.WordAddsAndSubtractsWithCarry : Prop := ∀ (s : State) (ss : Pair),
  Completes (.adcHlSs ss) s (fun t =>
    t.hl.toNat = (s.hl.toNat + (s.pair ss).toNat + s.main.f.c.toNat) % 0x10000 ∧
    FlagsAre t (t.hl.getLsbD 15) (t.hl == 0#16)
      (decide (0x1000 ≤ s.hl.toNat % 0x1000 + (s.pair ss).toNat % 0x1000 + s.main.f.c.toNat))
      (!decide (-0x8000 ≤ s.hl.toInt + (s.pair ss).toInt + s.main.f.c.toNat ∧
        s.hl.toInt + (s.pair ss).toInt + s.main.f.c.toNat ≤ 0x7FFF))
      false (decide (0x10000 ≤ s.hl.toNat + (s.pair ss).toNat + s.main.f.c.toNat)) ∧
    KeepsReg8 [.h, .l] s t ∧ KeepsOthers s t ∧ KeepsMemory s t ∧ EndsAt t (s.pc + 2#16) 15) ∧
  Completes (.sbcHlSs ss) s (fun t =>
    (t.hl.toNat : Int) = ((s.hl.toNat : Int) - (s.pair ss).toNat - s.main.f.c.toNat) % 0x10000 ∧
    FlagsAre t (t.hl.getLsbD 15) (t.hl == 0#16)
      (decide (s.hl.toNat % 0x1000 < (s.pair ss).toNat % 0x1000 + s.main.f.c.toNat))
      (!decide (-0x8000 ≤ s.hl.toInt - (s.pair ss).toInt - s.main.f.c.toNat ∧
        s.hl.toInt - (s.pair ss).toInt - s.main.f.c.toNat ≤ 0x7FFF))
      true (decide (s.hl.toNat < (s.pair ss).toNat + s.main.f.c.toNat)) ∧
    KeepsReg8 [.h, .l] s t ∧ KeepsOthers s t ∧ KeepsMemory s t ∧ EndsAt t (s.pc + 2#16) 15)

/-- R217-R220: INC and DEC of a pair, SP or an index register complete: the register changes by 1 mod 2^16,
and nothing else changes, no flag included, but PC and the cycle count. -/
def Obligations.WordIncAndDec : Prop := ∀ s : State,
  (∀ ss, Completes (.incSs ss) s (LoadsPair s ss (s.pair ss + 1#16) 1#16 6)) ∧
  (∀ xy, Completes (.incXy xy) s (LoadsIdx s xy (s.idx xy + 1#16) 2#16 10)) ∧
  (∀ ss, Completes (.decSs ss) s (LoadsPair s ss (s.pair ss - 1#16) 1#16 6)) ∧
  (∀ xy, Completes (.decXy xy) s (LoadsIdx s xy (s.idx xy - 1#16) 2#16 10))

/-! ### Rotates, shifts and bits (44_rotate_bit.md) -/

/-- R221-R224: RLCA, RLA, RRCA, RRA complete: A is rotated, C takes the bit moved out, H and N are cleared,
S, Z, PV stay, and nothing else changes but PC and the cycle count. -/
def Obligations.AccumulatorRotates : Prop := ∀ s : State,
  Completes .rlca s (RotatesA s (rlcValue s.main.a) (topBit s.main.a)) ∧
  Completes .rla s (RotatesA s (rlValue s.main.a s.main.f.c) (topBit s.main.a)) ∧
  Completes .rrca s (RotatesA s (rrcValue s.main.a) (bottomBit s.main.a)) ∧
  Completes .rra s (RotatesA s (rrValue s.main.a s.main.f.c) (bottomBit s.main.a))

/-- R225, R228, R231, R234, R237, R240, R243: the seven rotates and shifts of a register complete: the
register takes the result, C the bit moved out, S, Z, PV (parity) of the result, H and N cleared, and
nothing else changes but PC and the cycle count. -/
def Obligations.RegisterRotatesAndShifts : Prop := ∀ (s : State) (r : Reg8),
  Completes (.rlcR r) s (RotatesReg s r (rlcValue (s.reg8 r)) (topBit (s.reg8 r))) ∧
  Completes (.rrcR r) s (RotatesReg s r (rrcValue (s.reg8 r)) (bottomBit (s.reg8 r))) ∧
  Completes (.rlR r) s (RotatesReg s r (rlValue (s.reg8 r) s.main.f.c) (topBit (s.reg8 r))) ∧
  Completes (.rrR r) s (RotatesReg s r (rrValue (s.reg8 r) s.main.f.c) (bottomBit (s.reg8 r))) ∧
  Completes (.slaR r) s (RotatesReg s r (slaValue (s.reg8 r)) (topBit (s.reg8 r))) ∧
  Completes (.sraR r) s (RotatesReg s r (sraValue (s.reg8 r)) (bottomBit (s.reg8 r))) ∧
  Completes (.srlR r) s (RotatesReg s r (srlValue (s.reg8 r)) (bottomBit (s.reg8 r)))

/-- R226-R245: the seven rotates and shifts of the byte at (HL) and at (xy+d) complete: the result is stored
there, the flags are those of the result also where the store is ignored, and nothing else changes but PC
and the cycle count. -/
def Obligations.MemoryRotatesAndShifts : Prop := ∀ s : State,
  Completes .rlcIndHl s (RotatesByte s s.hl rlcValue topBit 2#16 15) ∧
  Completes .rrcIndHl s (RotatesByte s s.hl rrcValue bottomBit 2#16 15) ∧
  Completes .rlIndHl s (RotatesByte s s.hl (rlValue · s.main.f.c) topBit 2#16 15) ∧
  Completes .rrIndHl s (RotatesByte s s.hl (rrValue · s.main.f.c) bottomBit 2#16 15) ∧
  Completes .slaIndHl s (RotatesByte s s.hl slaValue topBit 2#16 15) ∧
  Completes .sraIndHl s (RotatesByte s s.hl sraValue bottomBit 2#16 15) ∧
  Completes .srlIndHl s (RotatesByte s s.hl srlValue bottomBit 2#16 15) ∧
  ∀ xy d,
    Completes (.rlcIdx xy d) s (RotatesByte s (s.idxAddr xy d) rlcValue topBit 4#16 23) ∧
    Completes (.rrcIdx xy d) s (RotatesByte s (s.idxAddr xy d) rrcValue bottomBit 4#16 23) ∧
    Completes (.rlIdx xy d) s (RotatesByte s (s.idxAddr xy d) (rlValue · s.main.f.c) topBit 4#16 23) ∧
    Completes (.rrIdx xy d) s (RotatesByte s (s.idxAddr xy d) (rrValue · s.main.f.c) bottomBit 4#16 23) ∧
    Completes (.slaIdx xy d) s (RotatesByte s (s.idxAddr xy d) slaValue topBit 4#16 23) ∧
    Completes (.sraIdx xy d) s (RotatesByte s (s.idxAddr xy d) sraValue bottomBit 4#16 23) ∧
    Completes (.srlIdx xy d) s (RotatesByte s (s.idxAddr xy d) srlValue bottomBit 4#16 23)

/-- R246, R247: RLD and RRD complete: the digits of (HL) and the low digit of A are rotated, the byte is
stored at HL, S, Z, PV (parity) are of the new A, H and N cleared, C stays, and nothing else changes but PC
and the cycle count. -/
def Obligations.DigitRotates : Prop := ∀ s : State,
  Completes .rld s (fun t => ∃ m res : Byte,
    m.toNat = (s.memRead s.hl).toNat % 16 * 16 + s.main.a.toNat % 16 ∧
    res.toNat = s.main.a.toNat / 16 * 16 + (s.memRead s.hl).toNat / 16 ∧ Stored [(s.hl, m)] s t ∧
    t.main.a = res ∧ KeepsReg8 [.a] s t ∧ KeepsOthers s t ∧
    FlagsAre t (res.getLsbD 7) (res == 0#8) false (parity res) false s.main.f.c ∧
    EndsAt t (s.pc + 2#16) 18) ∧
  Completes .rrd s (fun t => ∃ m res : Byte,
    m.toNat = s.main.a.toNat % 16 * 16 + (s.memRead s.hl).toNat / 16 ∧
    res.toNat = s.main.a.toNat / 16 * 16 + (s.memRead s.hl).toNat % 16 ∧ Stored [(s.hl, m)] s t ∧
    t.main.a = res ∧ KeepsReg8 [.a] s t ∧ KeepsOthers s t ∧
    FlagsAre t (res.getLsbD 7) (res == 0#8) false (parity res) false s.main.f.c ∧
    EndsAt t (s.pc + 2#16) 18)

/-- BIT b in every form completes: Z is the complement of the bit, H is set, N cleared, C stays, S and PV
are free, and nothing else changes but PC and the cycle count (R248-R250). -/
def Obligations.BitTestsReadOneBit : Prop := ∀ (s : State) (b : BitVec 3),
  (∀ r, Completes (.bitR b r) s (TestsBit s ((s.reg8 r).getLsbD b.toNat) 2#16 8)) ∧
  Completes (.bitIndHl b) s (TestsBit s ((s.memRead s.hl).getLsbD b.toNat) 2#16 12) ∧
  (∀ xy d, Completes (.bitIdx b xy d) s
    (TestsBit s ((s.memRead (s.idxAddr xy d)).getLsbD b.toNat) 4#16 20))

/-- R251-R256: SET and RES in every form complete: the one bit of the operand becomes 1 or 0, every other
bit of it stays, and nothing else changes, no flag included, but PC and the cycle count. -/
def Obligations.BitSetsAndResetsChangeOneBit : Prop := ∀ (s : State) (b : BitVec 3),
  (∀ r, Completes (.setR b r) s (fun t => ∃ v, bitMade b true (s.reg8 r) v ∧ LoadsReg s r v 2#16 8 t)) ∧
  Completes (.setIndHl b) s (fun t => ∃ v, bitMade b true (s.memRead s.hl) v ∧
    OnlyStores s [(s.hl, v)] 2#16 15 t) ∧
  (∀ xy d, Completes (.setIdx b xy d) s (fun t => ∃ v, bitMade b true (s.memRead (s.idxAddr xy d)) v ∧
    OnlyStores s [(s.idxAddr xy d, v)] 4#16 23 t)) ∧
  (∀ r, Completes (.resR b r) s (fun t => ∃ v, bitMade b false (s.reg8 r) v ∧ LoadsReg s r v 2#16 8 t)) ∧
  Completes (.resIndHl b) s (fun t => ∃ v, bitMade b false (s.memRead s.hl) v ∧
    OnlyStores s [(s.hl, v)] 2#16 15 t) ∧
  (∀ xy d, Completes (.resIdx b xy d) s (fun t => ∃ v, bitMade b false (s.memRead (s.idxAddr xy d)) v ∧
    OnlyStores s [(s.idxAddr xy d, v)] 4#16 23 t))

/-! ### Jumps, calls, returns (45_jump_call.md) -/

/-- R91: a condition code tests one flag, Z, C, PV or S, for 0 or 1; R257-R263: the jumps complete at their
target for the taken cost, or after the instruction for the other cost where the condition fails; JR and
DJNZ count from PC + 2; DJNZ counts B down and jumps while it is not 0; nothing else changes. -/
def Obligations.JumpsLand : Prop := ∀ s : State,
  (∀ nn, Completes (.jpNn nn) s (OnlyJumps s nn 10)) ∧
  (∀ cc nn, Completes (.jpCcNn cc nn) s (OnlyJumps s (if s.holds cc then nn else s.pc + 3#16) 10)) ∧
  (∀ e, Completes (.jrE e) s (OnlyJumps s (s.branch e) 12)) ∧
  (∀ cc e, Completes (.jrCcE cc e) s
    (OnlyJumps s (if s.holds cc then s.branch e else s.pc + 2#16) (if s.holds cc then 12 else 7))) ∧
  Completes .jpIndHl s (OnlyJumps s s.hl 4) ∧
  (∀ xy, Completes (.jpIndXy xy) s (OnlyJumps s (s.idx xy) 8)) ∧
  (∀ e, Completes (.djnzE e) s (fun t => t.main.b = s.main.b - 1#8 ∧ KeepsReg8 [.b] s t ∧ KeepsFlags s t ∧
    KeepsOthers s t ∧ KeepsMemory s t ∧
    EndsAt t (if s.main.b = 1#8 then s.pc + 2#16 else s.branch e) (if s.main.b = 1#8 then 8 else 13)))

/-- R264, R265, R269: CALL and RST complete: the address after the instruction is pushed and execution goes
on at the target; a CALL whose condition fails only ends after the instruction. -/
def Obligations.CallsPushTheReturnAddress : Prop := ∀ s : State,
  (∀ nn, Completes (.callNn nn) s (PushesWord s (s.pc + 3#16) nn 17)) ∧
  (∀ cc nn, Completes (.callCcNn cc nn) s (fun t =>
    if s.holds cc then PushesWord s (s.pc + 3#16) nn 17 t else OnlyJumps s (s.pc + 3#16) 10 t)) ∧
  (∀ p, Completes (.rstP p) s (PushesWord s (s.pc + 1#16) (pack 0#8 p) 11))

/-- R266-R268, R270: RET, RETI, RETN complete at the popped address, SP rising by 2; RETI and RETN also copy
IFF2 into IFF1; a RET whose condition fails only ends after the instruction; nothing else changes. -/
def Obligations.ReturnsPopTheReturnAddress : Prop := ∀ s : State,
  Completes .ret s (fun t => t.sp = s.sp + 2#16 ∧
    OnlyJumps s (pack (s.memRead (s.sp + 1#16)) (s.memRead s.sp)) 10 { t with sp := s.sp }) ∧
  (∀ cc, Completes (.retCc cc) s (fun t =>
    if s.holds cc then t.sp = s.sp + 2#16 ∧
      OnlyJumps s (pack (s.memRead (s.sp + 1#16)) (s.memRead s.sp)) 11 { t with sp := s.sp }
    else OnlyJumps s (s.pc + 1#16) 5 t)) ∧
  Completes .reti s (fun t => t.sp = s.sp + 2#16 ∧ t.iff1 = s.iff2 ∧
    OnlyJumps s (pack (s.memRead (s.sp + 1#16)) (s.memRead s.sp)) 14
      { t with sp := s.sp, iff1 := s.iff1 }) ∧
  Completes .retn s (fun t => t.sp = s.sp + 2#16 ∧ t.iff1 = s.iff2 ∧
    OnlyJumps s (pack (s.memRead (s.sp + 1#16)) (s.memRead s.sp)) 14 { t with sp := s.sp, iff1 := s.iff1 })

/-! ### I/O (46_io.md) -/

/-- The oracle's answer and the record of events are the model's (logs 3, 4). R272, R273, R278, R279: IN and OUT
complete with one read or write of the port {A, n} or BC; IN r,(C)
sets S, Z, PV (parity) of the byte and clears H and N, the others write no flag; nothing else changes but
PC and the cycle count. -/
def Obligations.PortReadsAndWrites : Prop := ∀ s : State,
  (∀ n, Completes (.inAIndN n) s (fun t => ∃ v, ReadsPort s (pack s.main.a n) v t ∧ t.main.a = v ∧
    KeepsReg8 [.a] s t ∧ KeepsFlags s t ∧ KeepsOthersButIo s t ∧ KeepsMemory s t ∧
    EndsAt t (s.pc + 2#16) 11)) ∧
  (∀ r, Completes (.inRIndC r) s (fun t => ∃ v, ReadsPort s s.bc v t ∧ t.reg8 r = v ∧ KeepsReg8 [r] s t ∧
    FlagsAre t (v.getLsbD 7) (v == 0#8) false (parity v) false s.main.f.c ∧ KeepsOthersButIo s t ∧
    KeepsMemory s t ∧ EndsAt t (s.pc + 2#16) 12)) ∧
  (∀ n, Completes (.outIndNA n) s (fun t => WritesPort s (pack s.main.a n) s.main.a t ∧ KeepsReg8 [] s t ∧
    KeepsFlags s t ∧ KeepsOthersButIo s t ∧ KeepsMemory s t ∧ EndsAt t (s.pc + 2#16) 11)) ∧
  (∀ r, Completes (.outIndCR r) s (fun t => WritesPort s s.bc (s.reg8 r) t ∧ KeepsReg8 [] s t ∧
    KeepsFlags s t ∧ KeepsOthersButIo s t ∧ KeepsMemory s t ∧ EndsAt t (s.pc + 2#16) 12))

/-- The oracle's answer and the record of events are the model's (logs 3, 4). R274-R277: each of INI, INIR,
IND, INDR completes one iteration: a byte is read from port BC and stored at HL, B counts down, HL moves; Z
tells whether B is 0, N is set, S, H, PV, C are free; INIR and INDR go on while the new B is not 0. -/
def Obligations.BlockInputsStoreOneByte : Prop := ∀ s : State,
  Completes .ini s (InputsByte s 1#16 (s.pc + 2#16) 16) ∧
  Completes .inir s (Repeats (decide (s.main.b ≠ 1#8)) s (InputsByte s 1#16)) ∧
  Completes .ind s (InputsByte s 0xFFFF#16 (s.pc + 2#16) 16) ∧
  Completes .indr s (Repeats (decide (s.main.b ≠ 1#8)) s (InputsByte s 0xFFFF#16))

/-- The record of events is the model's (log 4). R280-R283: each of OUTI, OTIR, OUTD, OTDR completes one
iteration: B counts down, the byte at HL is written to port BC with the new B, HL moves; Z tells whether B
is 0, N is set, S, H, PV, C are free; OTIR and OTDR go on while the new B is not 0. -/
def Obligations.BlockOutputsWriteOneByte : Prop := ∀ s : State,
  Completes .outi s (OutputsByte s 1#16 (s.pc + 2#16) 16) ∧
  Completes .otir s (Repeats (decide (s.main.b ≠ 1#8)) s (OutputsByte s 1#16)) ∧
  Completes .outd s (OutputsByte s 0xFFFF#16 (s.pc + 2#16) 16) ∧
  Completes .otdr s (Repeats (decide (s.main.b ≠ 1#8)) s (OutputsByte s 0xFFFF#16))

/-! ### The step (30_encoding.md R104) -/

/-- A machine that is not faulted, accepts no interrupt and is not halted, and whose bytes at PC decode to
i, executes exactly i: step is exec of i on the state whose R has counted and, with P_HAS_INTERRUPTS, whose
ei_delay has ended. -/
def Obligations.StepRunsTheDecodedInstruction : Prop := ∀ (s : State) (i : Instr),
  s.runs → s.fetchesAs (.ok i) →
  step s = exec i { s with regR := s.fetchedR, eiDelay := s.eiDelay && !s.cfg.hasInterrupts }

/-- R31: every step that answers a next state leaves bit 7 of R and counts its low 7 bits by 1 mod 128, or,
under PerM1, by 2 where it runs an instruction whose first byte is CB, DD, ED or FD; but LD R,A leaves all of A
in R, and LD A,R leaves in A what R is after the count. -/
def Obligations.RefreshCountsEveryStep : Prop := ∀ s t : State, step s = .next t →
  (s.runs → s.fetchesAs (.ok .ldRA) → t.regR = s.main.a) ∧
  (s.runs → s.fetchesAs (.ok .ldAR) → t.main.a = t.regR) ∧
  (¬ (s.runs ∧ s.fetchesAs (.ok .ldRA)) →
    t.regR.getLsbD 7 = s.regR.getLsbD 7 ∧
    (¬ (s.runs ∧ s.cfg.rInc = .perM1 ∧ s.memRead s.pc ∈ [0xCB#8, 0xDD#8, 0xED#8, 0xFD#8]) →
      t.regR.toNat % 128 = (s.regR.toNat + 1) % 128) ∧
    (∀ i, s.runs → s.cfg.rInc = .perM1 → s.memRead s.pc ∈ [0xCB#8, 0xDD#8, 0xED#8, 0xFD#8] →
      s.fetchesAs (.ok i) → t.regR.toNat % 128 = (s.regR.toNat + 2) % 128))

/-- R285: bytes that are no instruction make the step end in Unimplemented: fault records PC and the bytes
read, last_cycles is 0, R has counted, and PC and everything else stay. The count under PerM1 for DD DD and
other undecodable prefix sequences is the model's reading (log 14). -/
def Obligations.UndecodableBytesFault : Prop := ∀ (s : State) (e : DecodeError),
  s.runs → s.fetchesAs (.error e) →
  ∃ bytes : List Byte,
    bytes = (if e = .xycbRow then
        [s.memRead s.pc, s.memRead (s.pc + 1#16), s.memRead (s.pc + 2#16), s.memRead (s.pc + 3#16)]
      else [s.memRead s.pc, s.memRead (s.pc + 1#16)]) ∧
    step s = .next { s with regR := s.fetchedR, fault := some ⟨s.pc, bytes⟩, lastCycles := 0 }

/-- R286: while fault is set, step answers Faulted, which changes no state, whatever else the state holds;
the host's step leaves the machine as it is. -/
def Obligations.FaultedMachineDoesNothing : Prop := ∀ (s : State) (info : Unimplemented),
  s.fault = some info → step s = .fault (.faulted info) ∧ s.hostStep = (.faulted, s)

/-- R104: a halted machine that accepts no interrupt counts R once, costs 4 cycles, and changes nothing
else, but that with P_HAS_INTERRUPTS ei_delay ends (R287; log 8). -/
def Obligations.HaltedMachineIdles : Prop := ∀ s : State,
  ({ s with halted := false } : State).runs → s.halted = true →
  step s = .next { s with regR := refreshed s.regR, lastCycles := 4, eiDelay := s.eiDelay && !s.cfg.hasInterrupts }

/-! ### Interrupts (60_exceptions.md) -/

/-- R289: with P_HAS_INTERRUPTS and nmi_pending the step accepts the NMI, before anything else but a fault:
PC is pushed, execution goes on at 0x0066 for 11 cycles, IFF1 and nmi_pending are cleared, IFF2 stays. -/
def Obligations.NmiIsTaken : Prop := ∀ s : State,
  s.cfg.hasInterrupts = true → s.fault = none → s.nmiPending = true →
  ∃ t, step s = .next t ∧ EntersHandler s 0x0066#16 11 t ∧ t.nmiPending = false ∧ t.iff2 = s.iff2

/-- R290, R291: a maskable interrupt that is accepted clears both IFFs, pushes PC and goes on at the RST
target of int_data in mode 0 (13 cycles; any other byte raises Unimplemented(PC, [byte])), at 0x0038 in mode
1 (13 cycles), and in mode 2 at the word read at {I, int_data} after the push (19 cycles). That a byte that is
no RST still leaves the first line of the acceptance done is the model's reading (log 9). -/
def Obligations.MaskableInterruptIsTaken : Prop := ∀ s : State, s.takesInt →
  ∃ t, step s = .next t ∧ t.iff2 = false ∧ t.nmiPending = false ∧
    match s.im with
    | .mode0 =>
      if s.intData.toNat / 64 = 3 ∧ s.intData.toNat % 8 = 7 then
        ∃ target : Word, target.toNat = s.intData.toNat / 8 % 8 * 8 ∧ EntersHandler s target 13 t
      else t.fault = some ⟨s.pc, [s.intData]⟩ ∧ EndsAt t s.pc 0 ∧ t.regR = refreshed s.regR ∧ t.iff1 = false ∧
        t.halted = false ∧ KeepsMemory s t ∧ KeepsReg8 [] s t ∧ KeepsFlags s t ∧ KeepsSp s t ∧ KeepsIndex s t ∧
        KeepsAlternate s t
    | .mode1 => EntersHandler s 0x0038#16 13 t
    | .mode2 => EntersHandler s
        (pack (t.memRead (pack s.regI s.intData + 1#16)) (t.memRead (pack s.regI s.intData))) 19 t

/-- A taken NMI followed by RETN comes back: where both stack bytes can be stored, PC, SP and the registers
are those before the NMI, and IFF1 is what IFF2 was (R289, R296). -/
def Obligations.RetnUndoesNmi : Prop := ∀ s : State,
  s.cfg.hasInterrupts = true → s.fault = none → s.nmiPending = true →
  s.storable (s.sp - 1#16) = true → s.storable (s.sp - 2#16) = true →
  ∃ t u, step s = .next t ∧ exec .retn t = .next u ∧ u.pc = s.pc ∧ u.sp = s.sp ∧ u.iff1 = s.iff2 ∧
    u.iff2 = s.iff2 ∧ u.main = s.main ∧ u.alt = s.alt ∧ KeepsIndex s u

/-- R287 with P_HAS_INTERRUPTS: after a step that returns Ok, ei_delay is 1 exactly where that step executed EI;
and while it is 1, no maskable interrupt is accepted, whatever the host puts on the line. The step that ends in
Unimplemented, which R285 says changes nothing more, is left to log 8. -/
def Obligations.EiDelaysAcceptanceByOneStep : Prop := ∀ s t : State,
  s.cfg.hasInterrupts = true → step s = .next t → t.fault = none →
  (t.eiDelay = true ↔ s.runs ∧ s.fetchesAs (.ok .ei)) ∧
  ∀ level data, t.eiDelay = true → (t.setInt level data).acceptance ≠ .maskable

/-! ### Reset and load (10_state.md, 70_reset_and_hazards.md) -/

/-- R41, R42, R300: reset() sets every register, flag, hidden and mapper state it names to its value, clears
RAM only under P_RESET_CLEARS_RAM, and leaves image, variant, cart_loaded, int_line and int_data; the
machine right after construction has no cartridge, is Standard and reset leaves it as it is. -/
def Obligations.ResetLeavesTheResetValues : Prop :=
  (∀ s : State, ∃ t, t = s.hostReset ∧
    (∀ r, t.reg8 r = 0#8) ∧ t.main.f.toByte = 0#8 ∧ t.alt.a = 0#8 ∧ t.alt.f.toByte = 0#8 ∧ t.alt.bc = 0#16 ∧
    t.alt.de = 0#16 ∧ t.alt.hl = 0#16 ∧ t.ix = 0#16 ∧ t.iy = 0#16 ∧ t.regI = 0#8 ∧ t.regR = 0#8 ∧
    t.sp = 0xDFF0#16 ∧ t.pc = 0x0000#16 ∧ t.iff1 = false ∧ t.iff2 = false ∧ t.im = .mode0 ∧
    t.halted = false ∧ t.fault = none ∧ t.lastCycles = 0 ∧ t.eiDelay = false ∧ t.nmiPending = false ∧
    t.intLine = s.intLine ∧ t.intData = s.intData ∧ t.mc.image = s.mc.image ∧ t.mc.variant = s.mc.variant ∧
    t.mc.cartLoaded = s.mc.cartLoaded ∧
    (s.mc.variant = .standard → t.memRead 0xFFFC#16 = 0#8 ∧ t.memRead 0xFFFD#16 = 0#8 ∧
      t.memRead 0xFFFE#16 = 1#8 ∧ t.memRead 0xFFFF#16 = 2#8) ∧
    (s.mc.variant = .alternateChecksum → t.memRead 0xFFFC#16 = s.memRead 0xFFFC#16 ∧
      t.memRead 0xFFFD#16 = s.memRead 0xFFFD#16 ∧ t.memRead 0xFFFE#16 = s.memRead 0xFFFE#16 ∧
      t.memRead 0xFFFF#16 = s.memRead 0xFFFF#16) ∧
    t.mc.apage0 = 0#8 ∧ t.mc.apage1 = 1#8 ∧ t.mc.apage2 = 2#8 ∧
    (s.cfg.resetClearsRam = false → t.mc.cram = s.mc.cram ∧
      ∀ a, inRam a = true → t.memRead a = s.memRead a) ∧
    (s.cfg.resetClearsRam = true → (∀ k, Memory.read t.mc.cram k = 0#8) ∧
      ∀ a, inRam a = true → t.memRead a = 0#8)) ∧
  State.reset.mc.image = [] ∧ State.reset.mc.variant = .standard ∧ State.reset.mc.cartLoaded = false ∧
  State.reset.hostReset = State.reset

/-- R66, R67, R301: load_cartridge(bytes) drops the first 512 bytes exactly where the length is 512 modulo
0x4000, selects AlternateChecksum exactly where the two little-endian words at 0x7FE6 and 0x7FE8 of the
stripped image exist and sum to 0 modulo 0x10000, resets the machine and sets cart_loaded. -/
def Obligations.LoadStripsDetectsAndResets : Prop := ∀ (s : State) (bytes : List Byte),
  ∃ t, t = s.loadCartridge bytes ∧
    t.dumpCartridgeData = (if bytes.length % 0x4000 = 512 then bytes.drop 512 else bytes) ∧
    (t.mc.variant = .alternateChecksum ↔ ∃ w1 w2 : Nat, ∃ b6 b7 b8 b9 : Byte,
      t.mc.image[0x7FE6]? = some b6 ∧ t.mc.image[0x7FE7]? = some b7 ∧ t.mc.image[0x7FE8]? = some b8 ∧
      t.mc.image[0x7FE9]? = some b9 ∧ w1 = b7.toNat * 256 + b6.toNat ∧ w2 = b9.toNat * 256 + b8.toNat ∧
      (w1 + w2) % 0x10000 = 0) ∧
    t.cartLoaded = true ∧ t.fault = none ∧ t.pc = 0x0000#16 ∧ t.sp = 0xDFF0#16 ∧
    { t with mc := { t.mc with cartLoaded := s.mc.cartLoaded } } =
      ({ s with mc := { s.mc with image := t.mc.image, variant := t.mc.variant } } : State).hostReset

/-! ### The address decoder (20_memory.md) -/

/-- R57-R59: every address reads the cell the decoder names: the unpaged first 1 KB of a Standard image,
cartridge RAM in slot 2 while enabled, the image byte of the selected page (P_ROM_OOB beyond the image),
RAM in both windows, and the four top cells. -/
def Obligations.ReadsFollowTheDecoder : Prop := ∀ (s : State) (a : Word),
  (a.toNat < 0x0400 → s.mc.variant = .standard → s.memRead a = s.imageByte a.toNat) ∧
  (a.toNat < 0xC000 → ¬ (s.mc.variant = .standard ∧ a.toNat < 0x0400) → ¬ (0x8000 ≤ a.toNat ∧ s.slot2IsRam) →
    s.memRead a = s.imageByte (a.toNat % 0x4000 + s.pageOf (a.toNat / 0x4000) * 0x4000)) ∧
  (0x8000 ≤ a.toNat → a.toNat < 0xC000 → s.slot2IsRam → s.memRead a =
    Memory.read s.mc.cram ((s.memRead 0xFFFC#16).toNat % 2 * 0x4000 + (a.toNat - 0x8000))) ∧
  (0xC000 ≤ a.toNat → a.toNat < 0xE000 → s.memRead a = Memory.read s.mc.ram (a.toNat - 0xC000)) ∧
  (0xE000 ≤ a.toNat → a.toNat < 0xFFFC → s.memRead a = Memory.read s.mc.ram (a.toNat - 0xE000)) ∧
  (a = 0xFFFC#16 → s.memRead a = s.mc.top0) ∧ (a = 0xFFFD#16 → s.memRead a = s.mc.top1) ∧
  (a = 0xFFFE#16 → s.memRead a = s.mc.top2) ∧ (a = 0xFFFF#16 → s.memRead a = s.mc.top3)

/-- R62: what reads show after MemWrite(a, 1, v): RAM bytes are seen in both windows, the top 4 bytes of a
window only at their own address, every RAM-backed address reads back v, and a ROM address stays as it was
but for the three page-select addresses of the AlternateChecksum variant. -/
def Obligations.WritesAreSeenWhereTheDecoderSays : Prop := ∀ (s : State) (a : Word) (v : Byte),
  (0xC000 ≤ a.toNat → a.toNat ≤ 0xDFFB →
    (s.memWrite a v).memRead a = v ∧ (s.memWrite a v).memRead (a + 0x2000#16) = v) ∧
  (0xE000 ≤ a.toNat → a.toNat ≤ 0xFFFB →
    (s.memWrite a v).memRead a = v ∧ (s.memWrite a v).memRead (a - 0x2000#16) = v) ∧
  (0xDFFC ≤ a.toNat → a.toNat ≤ 0xDFFF →
    (s.memWrite a v).memRead a = v ∧ ∀ x, x ≠ a → (s.memWrite a v).memRead x = s.memRead x) ∧
  (0xFFFC ≤ a.toNat → (s.memWrite a v).memRead a = v ∧
    ∀ x : Word, x ≠ a → 0xC000 ≤ x.toNat → (s.memWrite a v).memRead x = s.memRead x) ∧
  (0x8000 ≤ a.toNat → a.toNat < 0xC000 → s.slot2IsRam → (s.memWrite a v).memRead a = v) ∧
  (a.toNat < 0x8000 ∨ a.toNat < 0xC000 ∧ ¬ s.slot2IsRam →
    ¬ (s.mc.variant = .alternateChecksum ∧ a ∈ [0x0000#16, 0x4000#16, 0x8000#16]) →
    ∀ x, (s.memWrite a v).memRead x = s.memRead x)

/-- In the AlternateChecksum variant a write to 0x0000, 0x4000 or 0x8000 sets the page select of its slot:
every address of that slot then reads the image byte of page v and pagemask, and every other address reads
as before (R40, R60, R61). -/
def Obligations.AlternatePageSelects : Prop := ∀ (s : State) (k : Nat) (v : Byte) (x : Word), k < 3 →
  s.mc.variant = .alternateChecksum →
  (s.memWrite (BitVec.ofNat 16 (k * 0x4000)) v).memRead x =
    if x.toNat / 0x4000 = k then s.imageByte (x.toNat % 0x4000 + (v &&& s.mask).toNat * 0x4000)
    else s.memRead x

/-- R64: mc_read and mc_write are MemRead and MemWrite of one byte (the value mod 256) for an address from 0
to 0xFFFF; outside it mc_read returns 0 and mc_write changes nothing. -/
def Obligations.HostAccessors : Prop := ∀ (s : State) (address value : Int),
  (address < 0 ∨ 0xFFFF < address → s.mcRead address = 0#8 ∧ s.mcWrite address value = s) ∧
  (0 ≤ address → address ≤ 0xFFFF → ∃ (a : Word) (v : Byte), (a.toNat : Int) = address ∧
    (v.toNat : Int) = value % 256 ∧ s.mcRead address = s.memRead a ∧
    s.mcWrite address value = s.memWrite a v ∧ Stored [(a, v)] s (s.mcWrite address value))

/-! ### Encodings (30_encoding.md) -/

/-- Words written out from the spec's encodings of one or more instructions of each family decode to those
instructions, and three encodings of R97 are rejected by name. -/
def Obligations.SpecWordsDecode : Prop :=
  decodeBytes [0x78#8] = .ok (.ldRR .a .b) ∧
  decodeBytes [0xFD#8, 0x73#8, 0x7F#8] = .ok (.ldIdxR .iy 0x7F#8 .e) ∧
  decodeBytes [0x01#8, 0x02#8, 0x03#8] = .ok (.ldDdNn .bc 0x0302#16) ∧
  decodeBytes [0xED#8, 0xB0#8] = .ok .ldir ∧
  decodeBytes [0xD6#8, 0x43#8] = .ok (.subN 0x43#8) ∧
  decodeBytes [0xED#8, 0x44#8] = .ok .neg ∧
  decodeBytes [0xED#8, 0x72#8] = .ok (.sbcHlSs .sp) ∧
  decodeBytes [0xFD#8, 0x29#8] = .ok (.addXyPp .iy .xy) ∧
  decodeBytes [0xCB#8, 0x2F#8] = .ok (.sraR .a) ∧
  decodeBytes [0xDD#8, 0xCB#8, 0x05#8, 0x46#8] = .ok (.bitIdx 0#3 .ix 0x05#8) ∧
  decodeBytes [0x10#8, 0xFD#8] = .ok (.djnzE 0xFD#8) ∧
  decodeBytes [0xFF#8] = .ok (.rstP 0x38#8) ∧
  decodeBytes [0xED#8, 0x51#8] = .ok (.outIndCR .d) ∧
  decodeBytes [0xCB#8, 0x30#8] = .error .cbRow ∧
  decodeBytes [0xDD#8, 0x24#8] = .error .xyRow ∧
  decodeBytes [0xFD#8, 0xCB#8, 0x00#8, 0x36#8] = .error .xycbRow

/-- Decoding the encoding of a well-formed instruction, whatever bytes follow it, gives the instruction:
every operand at every value. -/
def Obligations.DecodeOfEncodeIsTheInstruction : Prop := ∀ (i : Instr) (rest : List Byte),
  i.wellFormed = true → decodeBytes (encode i ++ rest) = .ok i

/-- Every four bytes that decode at all decode to a well-formed instruction whose encoding is their first
`length` bytes: each instruction has one encoding, and no bit of it is dropped. -/
def Obligations.EncodeOfDecodeIsTheBytes : Prop := ∀ (b0 b1 b2 b3 : Byte) (i : Instr),
  decode b0 b1 b2 b3 = .ok i →
  i.wellFormed = true ∧ encode i = [b0, b1, b2, b3].take i.length

/-! ### The whole machine -/

/-- Every step keeps the invariant, from every state that has it. -/
def Obligations.EveryStepKeepsTheInvariant : Prop := ∀ s t : State, s.Inv → step s = .next t → t.Inv

/-- The machine right after reset has the invariant. -/
def Obligations.ResetHasTheInvariant : Prop := State.reset.Inv

/-- R44: no step changes the alternate registers but EX AF,AF' and EXX, I but LD I,A, IM but IM n, or an
index register but the DD/FD instructions; and no step changes the cartridge image, the variant,
cart_loaded, the parameters or the interrupt inputs. -/
def Obligations.OnlyTheNamedInstructionsWrite : Prop := ∀ s t : State, step s = .next t →
  (t.alt ≠ s.alt → s.fetchesAs (.ok .exAfAf) ∨ s.fetchesAs (.ok .exx)) ∧
  (t.regI ≠ s.regI → s.fetchesAs (.ok .ldIA)) ∧
  (t.im ≠ s.im → s.fetchesAs (.ok .im0) ∨ s.fetchesAs (.ok .im1) ∨ s.fetchesAs (.ok .im2)) ∧
  (t.ix ≠ s.ix → s.memRead s.pc = 0xDD#8) ∧
  (t.iy ≠ s.iy → s.memRead s.pc = 0xFD#8) ∧
  t.mc.image = s.mc.image ∧ t.mc.variant = s.mc.variant ∧ t.mc.cartLoaded = s.mc.cartLoaded ∧
  t.cfg = s.cfg ∧ t.intLine = s.intLine ∧ t.intData = s.intData

/-- A step that ends Ok costs at least 4 and at most 23 cycles; one that ends in Unimplemented costs 0
(R106, R285). -/
def Obligations.StepCostsAreBounded : Prop := ∀ s t : State, step s = .next t →
  (t.fault = none → 4 ≤ t.lastCycles ∧ t.lastCycles ≤ 23) ∧ (t.fault ≠ none → t.lastCycles = 0)

/-- R295: update() runs Ok steps while their summed cost is below the budget P_CLOCK_HZ div P_FPS (59659 with
the reference parameters): before each of its n Ok steps the sum is below the budget. It returns Ok after the
first steps that reach it, exceeding it by at most 22 cycles, or returns the first other outcome, with the machine
that step leaves; with budget 0 it runs no step. -/
def Obligations.UpdateRunsOneFrame : Prop := ∀ s : State,
  (s.cfg = Params.reference → s.cfg.clockHz / s.cfg.fps = 59659) ∧
  (s.cfg.clockHz / s.cfg.fps = 0 → s.update = (.ok, s)) ∧
  ∃ (n : Nat) (u : State) (cost : Nat), runOk n s = some (u, cost) ∧
    (∀ m, m < n → ∃ (v : State) (c : Nat), runOk m s = some (v, c) ∧ c < s.cfg.clockHz / s.cfg.fps) ∧
    ((s.update = (.ok, u) ∧ s.cfg.clockHz / s.cfg.fps ≤ cost ∧ cost ≤ s.cfg.clockHz / s.cfg.fps + 22) ∨
      (cost < s.cfg.clockHz / s.cfg.fps ∧ s.update = u.hostStep ∧ u.hostStep.1 ≠ .ok))
end

