-- ==== Sys2Proof/Laws/Memory.lean ====
section
/-! SUPPORT. The byte store: reading after writing, and the canonical form every write keeps. -/

namespace Sys2Proof.Machine

open Sys2Proof

theorem lookupByte_erase_same (m : Memory) (a : Nat) :
    lookupByte Config.unwritten (Memory.erase m a) a = Config.unwritten := by
  induction m with
  | nil => rfl
  | cons c rest ih =>
    obtain ⟨k, v⟩ := c
    simp only [Memory.erase]
    split
    · exact ih
    · rename_i h; simp only [lookupByte, if_neg h, ih]

theorem lookupByte_erase_other (m : Memory) (a b : Nat) (h : b ≠ a) :
    lookupByte Config.unwritten (Memory.erase m a) b = lookupByte Config.unwritten m b := by
  induction m with
  | nil => rfl
  | cons c rest ih =>
    obtain ⟨k, v⟩ := c
    simp only [Memory.erase]
    split
    · rename_i hk; simp only [lookupByte, if_neg (fun e : k = b => h (e ▸ hk)), ih]
    · simp only [lookupByte, ih]

theorem lookupByte_insert_same (m : Memory) (a : Nat) (v : Byte) :
    lookupByte Config.unwritten (Memory.insert m a v) a = v := by
  induction m with
  | nil => simp [Memory.insert, lookupByte]
  | cons c rest ih =>
    obtain ⟨k, x⟩ := c
    simp only [Memory.insert]
    split
    · simp [lookupByte]
    · split
      · simp [lookupByte]
      · rename_i _ h; simp only [lookupByte, if_neg (Ne.symm h), ih]

theorem lookupByte_insert_other (m : Memory) (a b : Nat) (v : Byte) (h : b ≠ a) :
    lookupByte Config.unwritten (Memory.insert m a v) b = lookupByte Config.unwritten m b := by
  induction m with
  | nil => simp [Memory.insert, lookupByte, Ne.symm h]
  | cons c rest ih =>
    obtain ⟨k, x⟩ := c
    simp only [Memory.insert]
    split
    · simp only [lookupByte, if_neg (Ne.symm h)]
    · split
      · rename_i _ e; subst e; simp only [lookupByte, if_neg (Ne.symm h)]
      · simp only [lookupByte, ih]

/-- A read after a write to the same address gives the byte written. -/
@[simp] theorem Memory.read_write_same (m : Memory) (a : Nat) (v : Byte) :
    Memory.read (Memory.write m a v) a = v := by
  unfold Memory.read Memory.write
  split
  · rename_i h; rw [lookupByte_erase_same, h]
  · exact lookupByte_insert_same m a v

/-- A write leaves every other address alone. -/
theorem Memory.read_write_other (m : Memory) (a b : Nat) (v : Byte) (h : b ≠ a) :
    Memory.read (Memory.write m a v) b = Memory.read m b := by
  unfold Memory.read Memory.write
  split
  · exact lookupByte_erase_other m a b h
  · exact lookupByte_insert_other m a b v h

theorem Memory.wfAbove_mono (m : Memory) (lo lo2 : Nat) (h : lo2 ≤ lo) (hm : Memory.wfAbove lo m = true) :
    Memory.wfAbove lo2 m = true := by
  cases m with
  | nil => rfl
  | cons c rest =>
    obtain ⟨k, v⟩ := c
    simp only [Memory.wfAbove, Bool.and_eq_true, decide_eq_true_eq] at hm ⊢
    exact ⟨⟨le_trans h hm.1.1, hm.1.2⟩, hm.2⟩

theorem Memory.wfAbove_erase (m : Memory) (lo a : Nat) (hm : Memory.wfAbove lo m = true) :
    Memory.wfAbove lo (Memory.erase m a) = true := by
  induction m generalizing lo with
  | nil => rfl
  | cons c rest ih =>
    obtain ⟨k, v⟩ := c
    simp only [Memory.wfAbove, Bool.and_eq_true, decide_eq_true_eq] at hm
    simp only [Memory.erase]
    split
    · exact ih lo (Memory.wfAbove_mono rest (k + 1) lo (by omega) hm.2)
    · simp only [Memory.wfAbove, Bool.and_eq_true, decide_eq_true_eq]
      exact ⟨hm.1, ih (k + 1) hm.2⟩

theorem Memory.wfAbove_insert (m : Memory) (lo a : Nat) (v : Byte) (ha : lo ≤ a) (hv : v ≠ Config.unwritten)
    (hm : Memory.wfAbove lo m = true) : Memory.wfAbove lo (Memory.insert m a v) = true := by
  induction m generalizing lo with
  | nil => simp [Memory.insert, Memory.wfAbove, ha, hv]
  | cons c rest ih =>
    obtain ⟨k, x⟩ := c
    simp only [Memory.wfAbove, Bool.and_eq_true, decide_eq_true_eq] at hm
    simp only [Memory.insert]
    split
    · simp only [Memory.wfAbove, Bool.and_eq_true, decide_eq_true_eq, bne_iff_ne]
      exact ⟨⟨ha, hv⟩, ⟨by omega, by simpa using hm.1.2⟩, hm.2⟩
    · split
      · rename_i _ e; subst e
        simp only [Memory.wfAbove, Bool.and_eq_true, decide_eq_true_eq, bne_iff_ne]
        exact ⟨⟨ha, hv⟩, hm.2⟩
      · simp only [Memory.wfAbove, Bool.and_eq_true, decide_eq_true_eq]
        exact ⟨hm.1, ih (k + 1) (by omega) hm.2⟩

/-- A write keeps the canonical form. -/
theorem Memory.wf_write (m : Memory) (a : Nat) (v : Byte) (h : Memory.wf m = true) :
    Memory.wf (Memory.write m a v) = true := by
  unfold Memory.wf Memory.write
  split
  · exact Memory.wfAbove_erase m 0 a h
  · rename_i hv; exact Memory.wfAbove_insert m 0 a v (Nat.zero_le a) hv h

theorem Memory.within_erase (m : Memory) (n a : Nat) (h : Memory.within n m = true) :
    Memory.within n (Memory.erase m a) = true := by
  induction m with
  | nil => rfl
  | cons c rest ih =>
    obtain ⟨k, v⟩ := c
    simp only [Memory.within, List.all_cons, Bool.and_eq_true, decide_eq_true_eq] at h ih
    simp only [Memory.erase]
    split
    · exact ih h.2
    · simp only [Memory.within, List.all_cons, Bool.and_eq_true, decide_eq_true_eq]
      exact ⟨h.1, ih h.2⟩

theorem Memory.within_insert (m : Memory) (n a : Nat) (v : Byte) (ha : a < n) (h : Memory.within n m = true) :
    Memory.within n (Memory.insert m a v) = true := by
  induction m with
  | nil => simp [Memory.insert, Memory.within, ha]
  | cons c rest ih =>
    obtain ⟨k, x⟩ := c
    simp only [Memory.within, List.all_cons, Bool.and_eq_true, decide_eq_true_eq] at h ih
    simp only [Memory.insert]
    split
    · simp only [Memory.within, List.all_cons, Bool.and_eq_true, decide_eq_true_eq]
      exact ⟨ha, h.1, h.2⟩
    · split <;> simp only [Memory.within, List.all_cons, Bool.and_eq_true, decide_eq_true_eq]
      · exact ⟨ha, h.2⟩
      · exact ⟨h.1, ih h.2⟩

/-- A write below `n` keeps every listed address below `n`. -/
theorem Memory.within_write (m : Memory) (n a : Nat) (v : Byte) (ha : a < n) (h : Memory.within n m = true) :
    Memory.within n (Memory.write m a v) = true := by
  unfold Memory.write
  split
  · exact Memory.within_erase m n a h
  · exact Memory.within_insert m n a v ha h

/-- The store at reset has the canonical form. -/
theorem Memory.wf_nil : Memory.wf [] = true := rfl

end Sys2Proof.Machine
end

