-- ==== Sys2Proof/Laws/State.lean ====
section
/-! SUPPORT. One lemma per field per update of State: what each named operation leaves unchanged and what
it sets. -/

namespace Sys2Proof.Machine

open Sys2Proof

/-! ### setReg8 -/

@[simp] theorem State.setReg8_alt (s : State) (r : Reg8) (v : Byte) : (s.setReg8 r v).alt = s.alt := by cases r <;> rfl

@[simp] theorem State.setReg8_ix (s : State) (r : Reg8) (v : Byte) : (s.setReg8 r v).ix = s.ix := by cases r <;> rfl

@[simp] theorem State.setReg8_iy (s : State) (r : Reg8) (v : Byte) : (s.setReg8 r v).iy = s.iy := by cases r <;> rfl

@[simp] theorem State.setReg8_sp (s : State) (r : Reg8) (v : Byte) : (s.setReg8 r v).sp = s.sp := by cases r <;> rfl

@[simp] theorem State.setReg8_pc (s : State) (r : Reg8) (v : Byte) : (s.setReg8 r v).pc = s.pc := by cases r <;> rfl

@[simp] theorem State.setReg8_regI (s : State) (r : Reg8) (v : Byte) : (s.setReg8 r v).regI = s.regI := by cases r <;> rfl

@[simp] theorem State.setReg8_regR (s : State) (r : Reg8) (v : Byte) : (s.setReg8 r v).regR = s.regR := by cases r <;> rfl

@[simp] theorem State.setReg8_iff1 (s : State) (r : Reg8) (v : Byte) : (s.setReg8 r v).iff1 = s.iff1 := by cases r <;> rfl

@[simp] theorem State.setReg8_iff2 (s : State) (r : Reg8) (v : Byte) : (s.setReg8 r v).iff2 = s.iff2 := by cases r <;> rfl

@[simp] theorem State.setReg8_im (s : State) (r : Reg8) (v : Byte) : (s.setReg8 r v).im = s.im := by cases r <;> rfl

@[simp] theorem State.setReg8_halted (s : State) (r : Reg8) (v : Byte) : (s.setReg8 r v).halted = s.halted := by cases r <;> rfl

@[simp] theorem State.setReg8_fault (s : State) (r : Reg8) (v : Byte) : (s.setReg8 r v).fault = s.fault := by cases r <;> rfl

@[simp] theorem State.setReg8_lastCycles (s : State) (r : Reg8) (v : Byte) : (s.setReg8 r v).lastCycles = s.lastCycles := by cases r <;> rfl

@[simp] theorem State.setReg8_eiDelay (s : State) (r : Reg8) (v : Byte) : (s.setReg8 r v).eiDelay = s.eiDelay := by cases r <;> rfl

@[simp] theorem State.setReg8_nmiPending (s : State) (r : Reg8) (v : Byte) : (s.setReg8 r v).nmiPending = s.nmiPending := by cases r <;> rfl

@[simp] theorem State.setReg8_intLine (s : State) (r : Reg8) (v : Byte) : (s.setReg8 r v).intLine = s.intLine := by cases r <;> rfl

@[simp] theorem State.setReg8_intData (s : State) (r : Reg8) (v : Byte) : (s.setReg8 r v).intData = s.intData := by cases r <;> rfl

@[simp] theorem State.setReg8_mc (s : State) (r : Reg8) (v : Byte) : (s.setReg8 r v).mc = s.mc := by cases r <;> rfl

@[simp] theorem State.setReg8_cfg (s : State) (r : Reg8) (v : Byte) : (s.setReg8 r v).cfg = s.cfg := by cases r <;> rfl

@[simp] theorem State.setReg8_draws (s : State) (r : Reg8) (v : Byte) : (s.setReg8 r v).draws = s.draws := by cases r <;> rfl

@[simp] theorem State.setReg8_ioInput (s : State) (r : Reg8) (v : Byte) : (s.setReg8 r v).ioInput = s.ioInput := by cases r <;> rfl

@[simp] theorem State.setReg8_ioEvents (s : State) (r : Reg8) (v : Byte) : (s.setReg8 r v).ioEvents = s.ioEvents := by cases r <;> rfl

@[simp] theorem State.setReg8_memRead (s : State) (r : Reg8) (v : Byte) (x : Word) : (s.setReg8 r v).memRead x = s.memRead x := by cases r <;> rfl

@[simp] theorem State.setReg8_idx (s : State) (r : Reg8) (v : Byte) (z : IdxReg) : (s.setReg8 r v).idx z = s.idx z := by cases r <;> cases z <;> rfl

/-! ### setA -/

@[simp] theorem State.setA_alt (s : State) (v : Byte) : (s.setA v).alt = s.alt := rfl

@[simp] theorem State.setA_ix (s : State) (v : Byte) : (s.setA v).ix = s.ix := rfl

@[simp] theorem State.setA_iy (s : State) (v : Byte) : (s.setA v).iy = s.iy := rfl

@[simp] theorem State.setA_sp (s : State) (v : Byte) : (s.setA v).sp = s.sp := rfl

@[simp] theorem State.setA_pc (s : State) (v : Byte) : (s.setA v).pc = s.pc := rfl

@[simp] theorem State.setA_regI (s : State) (v : Byte) : (s.setA v).regI = s.regI := rfl

@[simp] theorem State.setA_regR (s : State) (v : Byte) : (s.setA v).regR = s.regR := rfl

@[simp] theorem State.setA_iff1 (s : State) (v : Byte) : (s.setA v).iff1 = s.iff1 := rfl

@[simp] theorem State.setA_iff2 (s : State) (v : Byte) : (s.setA v).iff2 = s.iff2 := rfl

@[simp] theorem State.setA_im (s : State) (v : Byte) : (s.setA v).im = s.im := rfl

@[simp] theorem State.setA_halted (s : State) (v : Byte) : (s.setA v).halted = s.halted := rfl

@[simp] theorem State.setA_fault (s : State) (v : Byte) : (s.setA v).fault = s.fault := rfl

@[simp] theorem State.setA_lastCycles (s : State) (v : Byte) : (s.setA v).lastCycles = s.lastCycles := rfl

@[simp] theorem State.setA_eiDelay (s : State) (v : Byte) : (s.setA v).eiDelay = s.eiDelay := rfl

@[simp] theorem State.setA_nmiPending (s : State) (v : Byte) : (s.setA v).nmiPending = s.nmiPending := rfl

@[simp] theorem State.setA_intLine (s : State) (v : Byte) : (s.setA v).intLine = s.intLine := rfl

@[simp] theorem State.setA_intData (s : State) (v : Byte) : (s.setA v).intData = s.intData := rfl

@[simp] theorem State.setA_mc (s : State) (v : Byte) : (s.setA v).mc = s.mc := rfl

@[simp] theorem State.setA_cfg (s : State) (v : Byte) : (s.setA v).cfg = s.cfg := rfl

@[simp] theorem State.setA_draws (s : State) (v : Byte) : (s.setA v).draws = s.draws := rfl

@[simp] theorem State.setA_ioInput (s : State) (v : Byte) : (s.setA v).ioInput = s.ioInput := rfl

@[simp] theorem State.setA_ioEvents (s : State) (v : Byte) : (s.setA v).ioEvents = s.ioEvents := rfl

@[simp] theorem State.setA_memRead (s : State) (v : Byte) (x : Word) : (s.setA v).memRead x = s.memRead x := rfl

@[simp] theorem State.setA_idx (s : State) (v : Byte) (z : IdxReg) : (s.setA v).idx z = s.idx z := by cases z <;> rfl

/-! ### setB -/

@[simp] theorem State.setB_alt (s : State) (v : Byte) : (s.setB v).alt = s.alt := rfl

@[simp] theorem State.setB_ix (s : State) (v : Byte) : (s.setB v).ix = s.ix := rfl

@[simp] theorem State.setB_iy (s : State) (v : Byte) : (s.setB v).iy = s.iy := rfl

@[simp] theorem State.setB_sp (s : State) (v : Byte) : (s.setB v).sp = s.sp := rfl

@[simp] theorem State.setB_pc (s : State) (v : Byte) : (s.setB v).pc = s.pc := rfl

@[simp] theorem State.setB_regI (s : State) (v : Byte) : (s.setB v).regI = s.regI := rfl

@[simp] theorem State.setB_regR (s : State) (v : Byte) : (s.setB v).regR = s.regR := rfl

@[simp] theorem State.setB_iff1 (s : State) (v : Byte) : (s.setB v).iff1 = s.iff1 := rfl

@[simp] theorem State.setB_iff2 (s : State) (v : Byte) : (s.setB v).iff2 = s.iff2 := rfl

@[simp] theorem State.setB_im (s : State) (v : Byte) : (s.setB v).im = s.im := rfl

@[simp] theorem State.setB_halted (s : State) (v : Byte) : (s.setB v).halted = s.halted := rfl

@[simp] theorem State.setB_fault (s : State) (v : Byte) : (s.setB v).fault = s.fault := rfl

@[simp] theorem State.setB_lastCycles (s : State) (v : Byte) : (s.setB v).lastCycles = s.lastCycles := rfl

@[simp] theorem State.setB_eiDelay (s : State) (v : Byte) : (s.setB v).eiDelay = s.eiDelay := rfl

@[simp] theorem State.setB_nmiPending (s : State) (v : Byte) : (s.setB v).nmiPending = s.nmiPending := rfl

@[simp] theorem State.setB_intLine (s : State) (v : Byte) : (s.setB v).intLine = s.intLine := rfl

@[simp] theorem State.setB_intData (s : State) (v : Byte) : (s.setB v).intData = s.intData := rfl

@[simp] theorem State.setB_mc (s : State) (v : Byte) : (s.setB v).mc = s.mc := rfl

@[simp] theorem State.setB_cfg (s : State) (v : Byte) : (s.setB v).cfg = s.cfg := rfl

@[simp] theorem State.setB_draws (s : State) (v : Byte) : (s.setB v).draws = s.draws := rfl

@[simp] theorem State.setB_ioInput (s : State) (v : Byte) : (s.setB v).ioInput = s.ioInput := rfl

@[simp] theorem State.setB_ioEvents (s : State) (v : Byte) : (s.setB v).ioEvents = s.ioEvents := rfl

@[simp] theorem State.setB_memRead (s : State) (v : Byte) (x : Word) : (s.setB v).memRead x = s.memRead x := rfl

@[simp] theorem State.setB_idx (s : State) (v : Byte) (z : IdxReg) : (s.setB v).idx z = s.idx z := by cases z <;> rfl

/-! ### setF -/

@[simp] theorem State.setF_alt (s : State) (f : FlagReg) : (s.setF f).alt = s.alt := rfl

@[simp] theorem State.setF_ix (s : State) (f : FlagReg) : (s.setF f).ix = s.ix := rfl

@[simp] theorem State.setF_iy (s : State) (f : FlagReg) : (s.setF f).iy = s.iy := rfl

@[simp] theorem State.setF_sp (s : State) (f : FlagReg) : (s.setF f).sp = s.sp := rfl

@[simp] theorem State.setF_pc (s : State) (f : FlagReg) : (s.setF f).pc = s.pc := rfl

@[simp] theorem State.setF_regI (s : State) (f : FlagReg) : (s.setF f).regI = s.regI := rfl

@[simp] theorem State.setF_regR (s : State) (f : FlagReg) : (s.setF f).regR = s.regR := rfl

@[simp] theorem State.setF_iff1 (s : State) (f : FlagReg) : (s.setF f).iff1 = s.iff1 := rfl

@[simp] theorem State.setF_iff2 (s : State) (f : FlagReg) : (s.setF f).iff2 = s.iff2 := rfl

@[simp] theorem State.setF_im (s : State) (f : FlagReg) : (s.setF f).im = s.im := rfl

@[simp] theorem State.setF_halted (s : State) (f : FlagReg) : (s.setF f).halted = s.halted := rfl

@[simp] theorem State.setF_fault (s : State) (f : FlagReg) : (s.setF f).fault = s.fault := rfl

@[simp] theorem State.setF_lastCycles (s : State) (f : FlagReg) : (s.setF f).lastCycles = s.lastCycles := rfl

@[simp] theorem State.setF_eiDelay (s : State) (f : FlagReg) : (s.setF f).eiDelay = s.eiDelay := rfl

@[simp] theorem State.setF_nmiPending (s : State) (f : FlagReg) : (s.setF f).nmiPending = s.nmiPending := rfl

@[simp] theorem State.setF_intLine (s : State) (f : FlagReg) : (s.setF f).intLine = s.intLine := rfl

@[simp] theorem State.setF_intData (s : State) (f : FlagReg) : (s.setF f).intData = s.intData := rfl

@[simp] theorem State.setF_mc (s : State) (f : FlagReg) : (s.setF f).mc = s.mc := rfl

@[simp] theorem State.setF_cfg (s : State) (f : FlagReg) : (s.setF f).cfg = s.cfg := rfl

@[simp] theorem State.setF_draws (s : State) (f : FlagReg) : (s.setF f).draws = s.draws := rfl

@[simp] theorem State.setF_ioInput (s : State) (f : FlagReg) : (s.setF f).ioInput = s.ioInput := rfl

@[simp] theorem State.setF_ioEvents (s : State) (f : FlagReg) : (s.setF f).ioEvents = s.ioEvents := rfl

@[simp] theorem State.setF_memRead (s : State) (f : FlagReg) (x : Word) : (s.setF f).memRead x = s.memRead x := rfl

@[simp] theorem State.setF_idx (s : State) (f : FlagReg) (z : IdxReg) : (s.setF f).idx z = s.idx z := by cases z <;> rfl

/-! ### setAf -/

@[simp] theorem State.setAf_alt (s : State) (w : Word) : (s.setAf w).alt = s.alt := rfl

@[simp] theorem State.setAf_ix (s : State) (w : Word) : (s.setAf w).ix = s.ix := rfl

@[simp] theorem State.setAf_iy (s : State) (w : Word) : (s.setAf w).iy = s.iy := rfl

@[simp] theorem State.setAf_sp (s : State) (w : Word) : (s.setAf w).sp = s.sp := rfl

@[simp] theorem State.setAf_pc (s : State) (w : Word) : (s.setAf w).pc = s.pc := rfl

@[simp] theorem State.setAf_regI (s : State) (w : Word) : (s.setAf w).regI = s.regI := rfl

@[simp] theorem State.setAf_regR (s : State) (w : Word) : (s.setAf w).regR = s.regR := rfl

@[simp] theorem State.setAf_iff1 (s : State) (w : Word) : (s.setAf w).iff1 = s.iff1 := rfl

@[simp] theorem State.setAf_iff2 (s : State) (w : Word) : (s.setAf w).iff2 = s.iff2 := rfl

@[simp] theorem State.setAf_im (s : State) (w : Word) : (s.setAf w).im = s.im := rfl

@[simp] theorem State.setAf_halted (s : State) (w : Word) : (s.setAf w).halted = s.halted := rfl

@[simp] theorem State.setAf_fault (s : State) (w : Word) : (s.setAf w).fault = s.fault := rfl

@[simp] theorem State.setAf_lastCycles (s : State) (w : Word) : (s.setAf w).lastCycles = s.lastCycles := rfl

@[simp] theorem State.setAf_eiDelay (s : State) (w : Word) : (s.setAf w).eiDelay = s.eiDelay := rfl

@[simp] theorem State.setAf_nmiPending (s : State) (w : Word) : (s.setAf w).nmiPending = s.nmiPending := rfl

@[simp] theorem State.setAf_intLine (s : State) (w : Word) : (s.setAf w).intLine = s.intLine := rfl

@[simp] theorem State.setAf_intData (s : State) (w : Word) : (s.setAf w).intData = s.intData := rfl

@[simp] theorem State.setAf_mc (s : State) (w : Word) : (s.setAf w).mc = s.mc := rfl

@[simp] theorem State.setAf_cfg (s : State) (w : Word) : (s.setAf w).cfg = s.cfg := rfl

@[simp] theorem State.setAf_draws (s : State) (w : Word) : (s.setAf w).draws = s.draws := rfl

@[simp] theorem State.setAf_ioInput (s : State) (w : Word) : (s.setAf w).ioInput = s.ioInput := rfl

@[simp] theorem State.setAf_ioEvents (s : State) (w : Word) : (s.setAf w).ioEvents = s.ioEvents := rfl

@[simp] theorem State.setAf_memRead (s : State) (w : Word) (x : Word) : (s.setAf w).memRead x = s.memRead x := rfl

@[simp] theorem State.setAf_idx (s : State) (w : Word) (z : IdxReg) : (s.setAf w).idx z = s.idx z := by cases z <;> rfl

/-! ### setBc -/

@[simp] theorem State.setBc_alt (s : State) (w : Word) : (s.setBc w).alt = s.alt := rfl

@[simp] theorem State.setBc_ix (s : State) (w : Word) : (s.setBc w).ix = s.ix := rfl

@[simp] theorem State.setBc_iy (s : State) (w : Word) : (s.setBc w).iy = s.iy := rfl

@[simp] theorem State.setBc_sp (s : State) (w : Word) : (s.setBc w).sp = s.sp := rfl

@[simp] theorem State.setBc_pc (s : State) (w : Word) : (s.setBc w).pc = s.pc := rfl

@[simp] theorem State.setBc_regI (s : State) (w : Word) : (s.setBc w).regI = s.regI := rfl

@[simp] theorem State.setBc_regR (s : State) (w : Word) : (s.setBc w).regR = s.regR := rfl

@[simp] theorem State.setBc_iff1 (s : State) (w : Word) : (s.setBc w).iff1 = s.iff1 := rfl

@[simp] theorem State.setBc_iff2 (s : State) (w : Word) : (s.setBc w).iff2 = s.iff2 := rfl

@[simp] theorem State.setBc_im (s : State) (w : Word) : (s.setBc w).im = s.im := rfl

@[simp] theorem State.setBc_halted (s : State) (w : Word) : (s.setBc w).halted = s.halted := rfl

@[simp] theorem State.setBc_fault (s : State) (w : Word) : (s.setBc w).fault = s.fault := rfl

@[simp] theorem State.setBc_lastCycles (s : State) (w : Word) : (s.setBc w).lastCycles = s.lastCycles := rfl

@[simp] theorem State.setBc_eiDelay (s : State) (w : Word) : (s.setBc w).eiDelay = s.eiDelay := rfl

@[simp] theorem State.setBc_nmiPending (s : State) (w : Word) : (s.setBc w).nmiPending = s.nmiPending := rfl

@[simp] theorem State.setBc_intLine (s : State) (w : Word) : (s.setBc w).intLine = s.intLine := rfl

@[simp] theorem State.setBc_intData (s : State) (w : Word) : (s.setBc w).intData = s.intData := rfl

@[simp] theorem State.setBc_mc (s : State) (w : Word) : (s.setBc w).mc = s.mc := rfl

@[simp] theorem State.setBc_cfg (s : State) (w : Word) : (s.setBc w).cfg = s.cfg := rfl

@[simp] theorem State.setBc_draws (s : State) (w : Word) : (s.setBc w).draws = s.draws := rfl

@[simp] theorem State.setBc_ioInput (s : State) (w : Word) : (s.setBc w).ioInput = s.ioInput := rfl

@[simp] theorem State.setBc_ioEvents (s : State) (w : Word) : (s.setBc w).ioEvents = s.ioEvents := rfl

@[simp] theorem State.setBc_memRead (s : State) (w : Word) (x : Word) : (s.setBc w).memRead x = s.memRead x := rfl

@[simp] theorem State.setBc_idx (s : State) (w : Word) (z : IdxReg) : (s.setBc w).idx z = s.idx z := by cases z <;> rfl

/-! ### setDe -/

@[simp] theorem State.setDe_alt (s : State) (w : Word) : (s.setDe w).alt = s.alt := rfl

@[simp] theorem State.setDe_ix (s : State) (w : Word) : (s.setDe w).ix = s.ix := rfl

@[simp] theorem State.setDe_iy (s : State) (w : Word) : (s.setDe w).iy = s.iy := rfl

@[simp] theorem State.setDe_sp (s : State) (w : Word) : (s.setDe w).sp = s.sp := rfl

@[simp] theorem State.setDe_pc (s : State) (w : Word) : (s.setDe w).pc = s.pc := rfl

@[simp] theorem State.setDe_regI (s : State) (w : Word) : (s.setDe w).regI = s.regI := rfl

@[simp] theorem State.setDe_regR (s : State) (w : Word) : (s.setDe w).regR = s.regR := rfl

@[simp] theorem State.setDe_iff1 (s : State) (w : Word) : (s.setDe w).iff1 = s.iff1 := rfl

@[simp] theorem State.setDe_iff2 (s : State) (w : Word) : (s.setDe w).iff2 = s.iff2 := rfl

@[simp] theorem State.setDe_im (s : State) (w : Word) : (s.setDe w).im = s.im := rfl

@[simp] theorem State.setDe_halted (s : State) (w : Word) : (s.setDe w).halted = s.halted := rfl

@[simp] theorem State.setDe_fault (s : State) (w : Word) : (s.setDe w).fault = s.fault := rfl

@[simp] theorem State.setDe_lastCycles (s : State) (w : Word) : (s.setDe w).lastCycles = s.lastCycles := rfl

@[simp] theorem State.setDe_eiDelay (s : State) (w : Word) : (s.setDe w).eiDelay = s.eiDelay := rfl

@[simp] theorem State.setDe_nmiPending (s : State) (w : Word) : (s.setDe w).nmiPending = s.nmiPending := rfl

@[simp] theorem State.setDe_intLine (s : State) (w : Word) : (s.setDe w).intLine = s.intLine := rfl

@[simp] theorem State.setDe_intData (s : State) (w : Word) : (s.setDe w).intData = s.intData := rfl

@[simp] theorem State.setDe_mc (s : State) (w : Word) : (s.setDe w).mc = s.mc := rfl

@[simp] theorem State.setDe_cfg (s : State) (w : Word) : (s.setDe w).cfg = s.cfg := rfl

@[simp] theorem State.setDe_draws (s : State) (w : Word) : (s.setDe w).draws = s.draws := rfl

@[simp] theorem State.setDe_ioInput (s : State) (w : Word) : (s.setDe w).ioInput = s.ioInput := rfl

@[simp] theorem State.setDe_ioEvents (s : State) (w : Word) : (s.setDe w).ioEvents = s.ioEvents := rfl

@[simp] theorem State.setDe_memRead (s : State) (w : Word) (x : Word) : (s.setDe w).memRead x = s.memRead x := rfl

@[simp] theorem State.setDe_idx (s : State) (w : Word) (z : IdxReg) : (s.setDe w).idx z = s.idx z := by cases z <;> rfl

/-! ### setHl -/

@[simp] theorem State.setHl_alt (s : State) (w : Word) : (s.setHl w).alt = s.alt := rfl

@[simp] theorem State.setHl_ix (s : State) (w : Word) : (s.setHl w).ix = s.ix := rfl

@[simp] theorem State.setHl_iy (s : State) (w : Word) : (s.setHl w).iy = s.iy := rfl

@[simp] theorem State.setHl_sp (s : State) (w : Word) : (s.setHl w).sp = s.sp := rfl

@[simp] theorem State.setHl_pc (s : State) (w : Word) : (s.setHl w).pc = s.pc := rfl

@[simp] theorem State.setHl_regI (s : State) (w : Word) : (s.setHl w).regI = s.regI := rfl

@[simp] theorem State.setHl_regR (s : State) (w : Word) : (s.setHl w).regR = s.regR := rfl

@[simp] theorem State.setHl_iff1 (s : State) (w : Word) : (s.setHl w).iff1 = s.iff1 := rfl

@[simp] theorem State.setHl_iff2 (s : State) (w : Word) : (s.setHl w).iff2 = s.iff2 := rfl

@[simp] theorem State.setHl_im (s : State) (w : Word) : (s.setHl w).im = s.im := rfl

@[simp] theorem State.setHl_halted (s : State) (w : Word) : (s.setHl w).halted = s.halted := rfl

@[simp] theorem State.setHl_fault (s : State) (w : Word) : (s.setHl w).fault = s.fault := rfl

@[simp] theorem State.setHl_lastCycles (s : State) (w : Word) : (s.setHl w).lastCycles = s.lastCycles := rfl

@[simp] theorem State.setHl_eiDelay (s : State) (w : Word) : (s.setHl w).eiDelay = s.eiDelay := rfl

@[simp] theorem State.setHl_nmiPending (s : State) (w : Word) : (s.setHl w).nmiPending = s.nmiPending := rfl

@[simp] theorem State.setHl_intLine (s : State) (w : Word) : (s.setHl w).intLine = s.intLine := rfl

@[simp] theorem State.setHl_intData (s : State) (w : Word) : (s.setHl w).intData = s.intData := rfl

@[simp] theorem State.setHl_mc (s : State) (w : Word) : (s.setHl w).mc = s.mc := rfl

@[simp] theorem State.setHl_cfg (s : State) (w : Word) : (s.setHl w).cfg = s.cfg := rfl

@[simp] theorem State.setHl_draws (s : State) (w : Word) : (s.setHl w).draws = s.draws := rfl

@[simp] theorem State.setHl_ioInput (s : State) (w : Word) : (s.setHl w).ioInput = s.ioInput := rfl

@[simp] theorem State.setHl_ioEvents (s : State) (w : Word) : (s.setHl w).ioEvents = s.ioEvents := rfl

@[simp] theorem State.setHl_memRead (s : State) (w : Word) (x : Word) : (s.setHl w).memRead x = s.memRead x := rfl

@[simp] theorem State.setHl_idx (s : State) (w : Word) (z : IdxReg) : (s.setHl w).idx z = s.idx z := by cases z <;> rfl

/-! ### setPair -/

@[simp] theorem State.setPair_alt (s : State) (dd : Pair) (w : Word) : (s.setPair dd w).alt = s.alt := by cases dd <;> rfl

@[simp] theorem State.setPair_ix (s : State) (dd : Pair) (w : Word) : (s.setPair dd w).ix = s.ix := by cases dd <;> rfl

@[simp] theorem State.setPair_iy (s : State) (dd : Pair) (w : Word) : (s.setPair dd w).iy = s.iy := by cases dd <;> rfl

@[simp] theorem State.setPair_pc (s : State) (dd : Pair) (w : Word) : (s.setPair dd w).pc = s.pc := by cases dd <;> rfl

@[simp] theorem State.setPair_regI (s : State) (dd : Pair) (w : Word) : (s.setPair dd w).regI = s.regI := by cases dd <;> rfl

@[simp] theorem State.setPair_regR (s : State) (dd : Pair) (w : Word) : (s.setPair dd w).regR = s.regR := by cases dd <;> rfl

@[simp] theorem State.setPair_iff1 (s : State) (dd : Pair) (w : Word) : (s.setPair dd w).iff1 = s.iff1 := by cases dd <;> rfl

@[simp] theorem State.setPair_iff2 (s : State) (dd : Pair) (w : Word) : (s.setPair dd w).iff2 = s.iff2 := by cases dd <;> rfl

@[simp] theorem State.setPair_im (s : State) (dd : Pair) (w : Word) : (s.setPair dd w).im = s.im := by cases dd <;> rfl

@[simp] theorem State.setPair_halted (s : State) (dd : Pair) (w : Word) : (s.setPair dd w).halted = s.halted := by cases dd <;> rfl

@[simp] theorem State.setPair_fault (s : State) (dd : Pair) (w : Word) : (s.setPair dd w).fault = s.fault := by cases dd <;> rfl

@[simp] theorem State.setPair_lastCycles (s : State) (dd : Pair) (w : Word) : (s.setPair dd w).lastCycles = s.lastCycles := by cases dd <;> rfl

@[simp] theorem State.setPair_eiDelay (s : State) (dd : Pair) (w : Word) : (s.setPair dd w).eiDelay = s.eiDelay := by cases dd <;> rfl

@[simp] theorem State.setPair_nmiPending (s : State) (dd : Pair) (w : Word) : (s.setPair dd w).nmiPending = s.nmiPending := by cases dd <;> rfl

@[simp] theorem State.setPair_intLine (s : State) (dd : Pair) (w : Word) : (s.setPair dd w).intLine = s.intLine := by cases dd <;> rfl

@[simp] theorem State.setPair_intData (s : State) (dd : Pair) (w : Word) : (s.setPair dd w).intData = s.intData := by cases dd <;> rfl

@[simp] theorem State.setPair_mc (s : State) (dd : Pair) (w : Word) : (s.setPair dd w).mc = s.mc := by cases dd <;> rfl

@[simp] theorem State.setPair_cfg (s : State) (dd : Pair) (w : Word) : (s.setPair dd w).cfg = s.cfg := by cases dd <;> rfl

@[simp] theorem State.setPair_draws (s : State) (dd : Pair) (w : Word) : (s.setPair dd w).draws = s.draws := by cases dd <;> rfl

@[simp] theorem State.setPair_ioInput (s : State) (dd : Pair) (w : Word) : (s.setPair dd w).ioInput = s.ioInput := by cases dd <;> rfl

@[simp] theorem State.setPair_ioEvents (s : State) (dd : Pair) (w : Word) : (s.setPair dd w).ioEvents = s.ioEvents := by cases dd <;> rfl

@[simp] theorem State.setPair_memRead (s : State) (dd : Pair) (w : Word) (x : Word) : (s.setPair dd w).memRead x = s.memRead x := by cases dd <;> rfl

@[simp] theorem State.setPair_idx (s : State) (dd : Pair) (w : Word) (z : IdxReg) : (s.setPair dd w).idx z = s.idx z := by cases dd <;> cases z <;> rfl

/-! ### setStackPair -/

@[simp] theorem State.setStackPair_alt (s : State) (qq : StackPair) (w : Word) : (s.setStackPair qq w).alt = s.alt := by cases qq <;> rfl

@[simp] theorem State.setStackPair_ix (s : State) (qq : StackPair) (w : Word) : (s.setStackPair qq w).ix = s.ix := by cases qq <;> rfl

@[simp] theorem State.setStackPair_iy (s : State) (qq : StackPair) (w : Word) : (s.setStackPair qq w).iy = s.iy := by cases qq <;> rfl

@[simp] theorem State.setStackPair_sp (s : State) (qq : StackPair) (w : Word) : (s.setStackPair qq w).sp = s.sp := by cases qq <;> rfl

@[simp] theorem State.setStackPair_pc (s : State) (qq : StackPair) (w : Word) : (s.setStackPair qq w).pc = s.pc := by cases qq <;> rfl

@[simp] theorem State.setStackPair_regI (s : State) (qq : StackPair) (w : Word) : (s.setStackPair qq w).regI = s.regI := by cases qq <;> rfl

@[simp] theorem State.setStackPair_regR (s : State) (qq : StackPair) (w : Word) : (s.setStackPair qq w).regR = s.regR := by cases qq <;> rfl

@[simp] theorem State.setStackPair_iff1 (s : State) (qq : StackPair) (w : Word) : (s.setStackPair qq w).iff1 = s.iff1 := by cases qq <;> rfl

@[simp] theorem State.setStackPair_iff2 (s : State) (qq : StackPair) (w : Word) : (s.setStackPair qq w).iff2 = s.iff2 := by cases qq <;> rfl

@[simp] theorem State.setStackPair_im (s : State) (qq : StackPair) (w : Word) : (s.setStackPair qq w).im = s.im := by cases qq <;> rfl

@[simp] theorem State.setStackPair_halted (s : State) (qq : StackPair) (w : Word) : (s.setStackPair qq w).halted = s.halted := by cases qq <;> rfl

@[simp] theorem State.setStackPair_fault (s : State) (qq : StackPair) (w : Word) : (s.setStackPair qq w).fault = s.fault := by cases qq <;> rfl

@[simp] theorem State.setStackPair_lastCycles (s : State) (qq : StackPair) (w : Word) : (s.setStackPair qq w).lastCycles = s.lastCycles := by cases qq <;> rfl

@[simp] theorem State.setStackPair_eiDelay (s : State) (qq : StackPair) (w : Word) : (s.setStackPair qq w).eiDelay = s.eiDelay := by cases qq <;> rfl

@[simp] theorem State.setStackPair_nmiPending (s : State) (qq : StackPair) (w : Word) : (s.setStackPair qq w).nmiPending = s.nmiPending := by cases qq <;> rfl

@[simp] theorem State.setStackPair_intLine (s : State) (qq : StackPair) (w : Word) : (s.setStackPair qq w).intLine = s.intLine := by cases qq <;> rfl

@[simp] theorem State.setStackPair_intData (s : State) (qq : StackPair) (w : Word) : (s.setStackPair qq w).intData = s.intData := by cases qq <;> rfl

@[simp] theorem State.setStackPair_mc (s : State) (qq : StackPair) (w : Word) : (s.setStackPair qq w).mc = s.mc := by cases qq <;> rfl

@[simp] theorem State.setStackPair_cfg (s : State) (qq : StackPair) (w : Word) : (s.setStackPair qq w).cfg = s.cfg := by cases qq <;> rfl

@[simp] theorem State.setStackPair_draws (s : State) (qq : StackPair) (w : Word) : (s.setStackPair qq w).draws = s.draws := by cases qq <;> rfl

@[simp] theorem State.setStackPair_ioInput (s : State) (qq : StackPair) (w : Word) : (s.setStackPair qq w).ioInput = s.ioInput := by cases qq <;> rfl

@[simp] theorem State.setStackPair_ioEvents (s : State) (qq : StackPair) (w : Word) : (s.setStackPair qq w).ioEvents = s.ioEvents := by cases qq <;> rfl

@[simp] theorem State.setStackPair_memRead (s : State) (qq : StackPair) (w : Word) (x : Word) : (s.setStackPair qq w).memRead x = s.memRead x := by cases qq <;> rfl

@[simp] theorem State.setStackPair_idx (s : State) (qq : StackPair) (w : Word) (z : IdxReg) : (s.setStackPair qq w).idx z = s.idx z := by cases qq <;> cases z <;> rfl

/-! ### setIdx -/

@[simp] theorem State.setIdx_main (s : State) (xy : IdxReg) (w : Word) : (s.setIdx xy w).main = s.main := by cases xy <;> rfl

@[simp] theorem State.setIdx_alt (s : State) (xy : IdxReg) (w : Word) : (s.setIdx xy w).alt = s.alt := by cases xy <;> rfl

@[simp] theorem State.setIdx_sp (s : State) (xy : IdxReg) (w : Word) : (s.setIdx xy w).sp = s.sp := by cases xy <;> rfl

@[simp] theorem State.setIdx_pc (s : State) (xy : IdxReg) (w : Word) : (s.setIdx xy w).pc = s.pc := by cases xy <;> rfl

@[simp] theorem State.setIdx_regI (s : State) (xy : IdxReg) (w : Word) : (s.setIdx xy w).regI = s.regI := by cases xy <;> rfl

@[simp] theorem State.setIdx_regR (s : State) (xy : IdxReg) (w : Word) : (s.setIdx xy w).regR = s.regR := by cases xy <;> rfl

@[simp] theorem State.setIdx_iff1 (s : State) (xy : IdxReg) (w : Word) : (s.setIdx xy w).iff1 = s.iff1 := by cases xy <;> rfl

@[simp] theorem State.setIdx_iff2 (s : State) (xy : IdxReg) (w : Word) : (s.setIdx xy w).iff2 = s.iff2 := by cases xy <;> rfl

@[simp] theorem State.setIdx_im (s : State) (xy : IdxReg) (w : Word) : (s.setIdx xy w).im = s.im := by cases xy <;> rfl

@[simp] theorem State.setIdx_halted (s : State) (xy : IdxReg) (w : Word) : (s.setIdx xy w).halted = s.halted := by cases xy <;> rfl

@[simp] theorem State.setIdx_fault (s : State) (xy : IdxReg) (w : Word) : (s.setIdx xy w).fault = s.fault := by cases xy <;> rfl

@[simp] theorem State.setIdx_lastCycles (s : State) (xy : IdxReg) (w : Word) : (s.setIdx xy w).lastCycles = s.lastCycles := by cases xy <;> rfl

@[simp] theorem State.setIdx_eiDelay (s : State) (xy : IdxReg) (w : Word) : (s.setIdx xy w).eiDelay = s.eiDelay := by cases xy <;> rfl

@[simp] theorem State.setIdx_nmiPending (s : State) (xy : IdxReg) (w : Word) : (s.setIdx xy w).nmiPending = s.nmiPending := by cases xy <;> rfl

@[simp] theorem State.setIdx_intLine (s : State) (xy : IdxReg) (w : Word) : (s.setIdx xy w).intLine = s.intLine := by cases xy <;> rfl

@[simp] theorem State.setIdx_intData (s : State) (xy : IdxReg) (w : Word) : (s.setIdx xy w).intData = s.intData := by cases xy <;> rfl

@[simp] theorem State.setIdx_mc (s : State) (xy : IdxReg) (w : Word) : (s.setIdx xy w).mc = s.mc := by cases xy <;> rfl

@[simp] theorem State.setIdx_cfg (s : State) (xy : IdxReg) (w : Word) : (s.setIdx xy w).cfg = s.cfg := by cases xy <;> rfl

@[simp] theorem State.setIdx_draws (s : State) (xy : IdxReg) (w : Word) : (s.setIdx xy w).draws = s.draws := by cases xy <;> rfl

@[simp] theorem State.setIdx_ioInput (s : State) (xy : IdxReg) (w : Word) : (s.setIdx xy w).ioInput = s.ioInput := by cases xy <;> rfl

@[simp] theorem State.setIdx_ioEvents (s : State) (xy : IdxReg) (w : Word) : (s.setIdx xy w).ioEvents = s.ioEvents := by cases xy <;> rfl

@[simp] theorem State.setIdx_memRead (s : State) (xy : IdxReg) (w : Word) (x : Word) : (s.setIdx xy w).memRead x = s.memRead x := by cases xy <;> rfl

@[simp] theorem State.setIdx_reg8 (s : State) (xy : IdxReg) (w : Word) (q : Reg8) : (s.setIdx xy w).reg8 q = s.reg8 q := by cases xy <;> cases q <;> rfl

@[simp] theorem State.setIdx_bc (s : State) (xy : IdxReg) (w : Word) : (s.setIdx xy w).bc = s.bc := by cases xy <;> rfl

@[simp] theorem State.setIdx_de (s : State) (xy : IdxReg) (w : Word) : (s.setIdx xy w).de = s.de := by cases xy <;> rfl

@[simp] theorem State.setIdx_hl (s : State) (xy : IdxReg) (w : Word) : (s.setIdx xy w).hl = s.hl := by cases xy <;> rfl

/-! ### memWrite -/

@[simp] theorem State.memWrite_main (s : State) (a : Word) (v : Byte) : (s.memWrite a v).main = s.main := rfl

@[simp] theorem State.memWrite_alt (s : State) (a : Word) (v : Byte) : (s.memWrite a v).alt = s.alt := rfl

@[simp] theorem State.memWrite_ix (s : State) (a : Word) (v : Byte) : (s.memWrite a v).ix = s.ix := rfl

@[simp] theorem State.memWrite_iy (s : State) (a : Word) (v : Byte) : (s.memWrite a v).iy = s.iy := rfl

@[simp] theorem State.memWrite_sp (s : State) (a : Word) (v : Byte) : (s.memWrite a v).sp = s.sp := rfl

@[simp] theorem State.memWrite_pc (s : State) (a : Word) (v : Byte) : (s.memWrite a v).pc = s.pc := rfl

@[simp] theorem State.memWrite_regI (s : State) (a : Word) (v : Byte) : (s.memWrite a v).regI = s.regI := rfl

@[simp] theorem State.memWrite_regR (s : State) (a : Word) (v : Byte) : (s.memWrite a v).regR = s.regR := rfl

@[simp] theorem State.memWrite_iff1 (s : State) (a : Word) (v : Byte) : (s.memWrite a v).iff1 = s.iff1 := rfl

@[simp] theorem State.memWrite_iff2 (s : State) (a : Word) (v : Byte) : (s.memWrite a v).iff2 = s.iff2 := rfl

@[simp] theorem State.memWrite_im (s : State) (a : Word) (v : Byte) : (s.memWrite a v).im = s.im := rfl

@[simp] theorem State.memWrite_halted (s : State) (a : Word) (v : Byte) : (s.memWrite a v).halted = s.halted := rfl

@[simp] theorem State.memWrite_fault (s : State) (a : Word) (v : Byte) : (s.memWrite a v).fault = s.fault := rfl

@[simp] theorem State.memWrite_lastCycles (s : State) (a : Word) (v : Byte) : (s.memWrite a v).lastCycles = s.lastCycles := rfl

@[simp] theorem State.memWrite_eiDelay (s : State) (a : Word) (v : Byte) : (s.memWrite a v).eiDelay = s.eiDelay := rfl

@[simp] theorem State.memWrite_nmiPending (s : State) (a : Word) (v : Byte) : (s.memWrite a v).nmiPending = s.nmiPending := rfl

@[simp] theorem State.memWrite_intLine (s : State) (a : Word) (v : Byte) : (s.memWrite a v).intLine = s.intLine := rfl

@[simp] theorem State.memWrite_intData (s : State) (a : Word) (v : Byte) : (s.memWrite a v).intData = s.intData := rfl

@[simp] theorem State.memWrite_cfg (s : State) (a : Word) (v : Byte) : (s.memWrite a v).cfg = s.cfg := rfl

@[simp] theorem State.memWrite_draws (s : State) (a : Word) (v : Byte) : (s.memWrite a v).draws = s.draws := rfl

@[simp] theorem State.memWrite_ioInput (s : State) (a : Word) (v : Byte) : (s.memWrite a v).ioInput = s.ioInput := rfl

@[simp] theorem State.memWrite_ioEvents (s : State) (a : Word) (v : Byte) : (s.memWrite a v).ioEvents = s.ioEvents := rfl

@[simp] theorem State.memWrite_reg8 (s : State) (a : Word) (v : Byte) (q : Reg8) : (s.memWrite a v).reg8 q = s.reg8 q := by cases q <;> rfl

@[simp] theorem State.memWrite_bc (s : State) (a : Word) (v : Byte) : (s.memWrite a v).bc = s.bc := rfl

@[simp] theorem State.memWrite_de (s : State) (a : Word) (v : Byte) : (s.memWrite a v).de = s.de := rfl

@[simp] theorem State.memWrite_hl (s : State) (a : Word) (v : Byte) : (s.memWrite a v).hl = s.hl := rfl

@[simp] theorem State.memWrite_idx (s : State) (a : Word) (v : Byte) (z : IdxReg) : (s.memWrite a v).idx z = s.idx z := by cases z <;> rfl

/-! ### memWrite16 -/

@[simp] theorem State.memWrite16_main (s : State) (a w : Word) : (s.memWrite16 a w).main = s.main := rfl

@[simp] theorem State.memWrite16_alt (s : State) (a w : Word) : (s.memWrite16 a w).alt = s.alt := rfl

@[simp] theorem State.memWrite16_ix (s : State) (a w : Word) : (s.memWrite16 a w).ix = s.ix := rfl

@[simp] theorem State.memWrite16_iy (s : State) (a w : Word) : (s.memWrite16 a w).iy = s.iy := rfl

@[simp] theorem State.memWrite16_sp (s : State) (a w : Word) : (s.memWrite16 a w).sp = s.sp := rfl

@[simp] theorem State.memWrite16_pc (s : State) (a w : Word) : (s.memWrite16 a w).pc = s.pc := rfl

@[simp] theorem State.memWrite16_regI (s : State) (a w : Word) : (s.memWrite16 a w).regI = s.regI := rfl

@[simp] theorem State.memWrite16_regR (s : State) (a w : Word) : (s.memWrite16 a w).regR = s.regR := rfl

@[simp] theorem State.memWrite16_iff1 (s : State) (a w : Word) : (s.memWrite16 a w).iff1 = s.iff1 := rfl

@[simp] theorem State.memWrite16_iff2 (s : State) (a w : Word) : (s.memWrite16 a w).iff2 = s.iff2 := rfl

@[simp] theorem State.memWrite16_im (s : State) (a w : Word) : (s.memWrite16 a w).im = s.im := rfl

@[simp] theorem State.memWrite16_halted (s : State) (a w : Word) : (s.memWrite16 a w).halted = s.halted := rfl

@[simp] theorem State.memWrite16_fault (s : State) (a w : Word) : (s.memWrite16 a w).fault = s.fault := rfl

@[simp] theorem State.memWrite16_lastCycles (s : State) (a w : Word) : (s.memWrite16 a w).lastCycles = s.lastCycles := rfl

@[simp] theorem State.memWrite16_eiDelay (s : State) (a w : Word) : (s.memWrite16 a w).eiDelay = s.eiDelay := rfl

@[simp] theorem State.memWrite16_nmiPending (s : State) (a w : Word) : (s.memWrite16 a w).nmiPending = s.nmiPending := rfl

@[simp] theorem State.memWrite16_intLine (s : State) (a w : Word) : (s.memWrite16 a w).intLine = s.intLine := rfl

@[simp] theorem State.memWrite16_intData (s : State) (a w : Word) : (s.memWrite16 a w).intData = s.intData := rfl

@[simp] theorem State.memWrite16_cfg (s : State) (a w : Word) : (s.memWrite16 a w).cfg = s.cfg := rfl

@[simp] theorem State.memWrite16_draws (s : State) (a w : Word) : (s.memWrite16 a w).draws = s.draws := rfl

@[simp] theorem State.memWrite16_ioInput (s : State) (a w : Word) : (s.memWrite16 a w).ioInput = s.ioInput := rfl

@[simp] theorem State.memWrite16_ioEvents (s : State) (a w : Word) : (s.memWrite16 a w).ioEvents = s.ioEvents := rfl

@[simp] theorem State.memWrite16_reg8 (s : State) (a w : Word) (q : Reg8) : (s.memWrite16 a w).reg8 q = s.reg8 q := by cases q <;> rfl

@[simp] theorem State.memWrite16_bc (s : State) (a w : Word) : (s.memWrite16 a w).bc = s.bc := rfl

@[simp] theorem State.memWrite16_de (s : State) (a w : Word) : (s.memWrite16 a w).de = s.de := rfl

@[simp] theorem State.memWrite16_hl (s : State) (a w : Word) : (s.memWrite16 a w).hl = s.hl := rfl

@[simp] theorem State.memWrite16_idx (s : State) (a w : Word) (z : IdxReg) : (s.memWrite16 a w).idx z = s.idx z := by cases z <;> rfl

/-! ### push16 -/

@[simp] theorem State.push16_main (s : State) (w : Word) : (s.push16 w).main = s.main := rfl

@[simp] theorem State.push16_alt (s : State) (w : Word) : (s.push16 w).alt = s.alt := rfl

@[simp] theorem State.push16_ix (s : State) (w : Word) : (s.push16 w).ix = s.ix := rfl

@[simp] theorem State.push16_iy (s : State) (w : Word) : (s.push16 w).iy = s.iy := rfl

@[simp] theorem State.push16_pc (s : State) (w : Word) : (s.push16 w).pc = s.pc := rfl

@[simp] theorem State.push16_regI (s : State) (w : Word) : (s.push16 w).regI = s.regI := rfl

@[simp] theorem State.push16_regR (s : State) (w : Word) : (s.push16 w).regR = s.regR := rfl

@[simp] theorem State.push16_iff1 (s : State) (w : Word) : (s.push16 w).iff1 = s.iff1 := rfl

@[simp] theorem State.push16_iff2 (s : State) (w : Word) : (s.push16 w).iff2 = s.iff2 := rfl

@[simp] theorem State.push16_im (s : State) (w : Word) : (s.push16 w).im = s.im := rfl

@[simp] theorem State.push16_halted (s : State) (w : Word) : (s.push16 w).halted = s.halted := rfl

@[simp] theorem State.push16_fault (s : State) (w : Word) : (s.push16 w).fault = s.fault := rfl

@[simp] theorem State.push16_lastCycles (s : State) (w : Word) : (s.push16 w).lastCycles = s.lastCycles := rfl

@[simp] theorem State.push16_eiDelay (s : State) (w : Word) : (s.push16 w).eiDelay = s.eiDelay := rfl

@[simp] theorem State.push16_nmiPending (s : State) (w : Word) : (s.push16 w).nmiPending = s.nmiPending := rfl

@[simp] theorem State.push16_intLine (s : State) (w : Word) : (s.push16 w).intLine = s.intLine := rfl

@[simp] theorem State.push16_intData (s : State) (w : Word) : (s.push16 w).intData = s.intData := rfl

@[simp] theorem State.push16_cfg (s : State) (w : Word) : (s.push16 w).cfg = s.cfg := rfl

@[simp] theorem State.push16_draws (s : State) (w : Word) : (s.push16 w).draws = s.draws := rfl

@[simp] theorem State.push16_ioInput (s : State) (w : Word) : (s.push16 w).ioInput = s.ioInput := rfl

@[simp] theorem State.push16_ioEvents (s : State) (w : Word) : (s.push16 w).ioEvents = s.ioEvents := rfl

@[simp] theorem State.push16_reg8 (s : State) (w : Word) (q : Reg8) : (s.push16 w).reg8 q = s.reg8 q := by cases q <;> rfl

@[simp] theorem State.push16_bc (s : State) (w : Word) : (s.push16 w).bc = s.bc := rfl

@[simp] theorem State.push16_de (s : State) (w : Word) : (s.push16 w).de = s.de := rfl

@[simp] theorem State.push16_hl (s : State) (w : Word) : (s.push16 w).hl = s.hl := rfl

@[simp] theorem State.push16_idx (s : State) (w : Word) (z : IdxReg) : (s.push16 w).idx z = s.idx z := by cases z <;> rfl

/-! ### dropTop -/

@[simp] theorem State.dropTop_main (s : State) : (s.dropTop).main = s.main := rfl

@[simp] theorem State.dropTop_alt (s : State) : (s.dropTop).alt = s.alt := rfl

@[simp] theorem State.dropTop_ix (s : State) : (s.dropTop).ix = s.ix := rfl

@[simp] theorem State.dropTop_iy (s : State) : (s.dropTop).iy = s.iy := rfl

@[simp] theorem State.dropTop_pc (s : State) : (s.dropTop).pc = s.pc := rfl

@[simp] theorem State.dropTop_regI (s : State) : (s.dropTop).regI = s.regI := rfl

@[simp] theorem State.dropTop_regR (s : State) : (s.dropTop).regR = s.regR := rfl

@[simp] theorem State.dropTop_iff1 (s : State) : (s.dropTop).iff1 = s.iff1 := rfl

@[simp] theorem State.dropTop_iff2 (s : State) : (s.dropTop).iff2 = s.iff2 := rfl

@[simp] theorem State.dropTop_im (s : State) : (s.dropTop).im = s.im := rfl

@[simp] theorem State.dropTop_halted (s : State) : (s.dropTop).halted = s.halted := rfl

@[simp] theorem State.dropTop_fault (s : State) : (s.dropTop).fault = s.fault := rfl

@[simp] theorem State.dropTop_lastCycles (s : State) : (s.dropTop).lastCycles = s.lastCycles := rfl

@[simp] theorem State.dropTop_eiDelay (s : State) : (s.dropTop).eiDelay = s.eiDelay := rfl

@[simp] theorem State.dropTop_nmiPending (s : State) : (s.dropTop).nmiPending = s.nmiPending := rfl

@[simp] theorem State.dropTop_intLine (s : State) : (s.dropTop).intLine = s.intLine := rfl

@[simp] theorem State.dropTop_intData (s : State) : (s.dropTop).intData = s.intData := rfl

@[simp] theorem State.dropTop_mc (s : State) : (s.dropTop).mc = s.mc := rfl

@[simp] theorem State.dropTop_cfg (s : State) : (s.dropTop).cfg = s.cfg := rfl

@[simp] theorem State.dropTop_draws (s : State) : (s.dropTop).draws = s.draws := rfl

@[simp] theorem State.dropTop_ioInput (s : State) : (s.dropTop).ioInput = s.ioInput := rfl

@[simp] theorem State.dropTop_ioEvents (s : State) : (s.dropTop).ioEvents = s.ioEvents := rfl

@[simp] theorem State.dropTop_memRead (s : State) (x : Word) : (s.dropTop).memRead x = s.memRead x := rfl

@[simp] theorem State.dropTop_reg8 (s : State) (q : Reg8) : (s.dropTop).reg8 q = s.reg8 q := by cases q <;> rfl

@[simp] theorem State.dropTop_bc (s : State) : (s.dropTop).bc = s.bc := rfl

@[simp] theorem State.dropTop_de (s : State) : (s.dropTop).de = s.de := rfl

@[simp] theorem State.dropTop_hl (s : State) : (s.dropTop).hl = s.hl := rfl

@[simp] theorem State.dropTop_idx (s : State) (z : IdxReg) : (s.dropTop).idx z = s.idx z := by cases z <;> rfl

/-! ### advance -/

@[simp] theorem State.advance_main (s : State) (len : Word) (cycles : Nat) : (s.advance len cycles).main = s.main := rfl

@[simp] theorem State.advance_alt (s : State) (len : Word) (cycles : Nat) : (s.advance len cycles).alt = s.alt := rfl

@[simp] theorem State.advance_ix (s : State) (len : Word) (cycles : Nat) : (s.advance len cycles).ix = s.ix := rfl

@[simp] theorem State.advance_iy (s : State) (len : Word) (cycles : Nat) : (s.advance len cycles).iy = s.iy := rfl

@[simp] theorem State.advance_sp (s : State) (len : Word) (cycles : Nat) : (s.advance len cycles).sp = s.sp := rfl

@[simp] theorem State.advance_regI (s : State) (len : Word) (cycles : Nat) : (s.advance len cycles).regI = s.regI := rfl

@[simp] theorem State.advance_regR (s : State) (len : Word) (cycles : Nat) : (s.advance len cycles).regR = s.regR := rfl

@[simp] theorem State.advance_iff1 (s : State) (len : Word) (cycles : Nat) : (s.advance len cycles).iff1 = s.iff1 := rfl

@[simp] theorem State.advance_iff2 (s : State) (len : Word) (cycles : Nat) : (s.advance len cycles).iff2 = s.iff2 := rfl

@[simp] theorem State.advance_im (s : State) (len : Word) (cycles : Nat) : (s.advance len cycles).im = s.im := rfl

@[simp] theorem State.advance_halted (s : State) (len : Word) (cycles : Nat) : (s.advance len cycles).halted = s.halted := rfl

@[simp] theorem State.advance_fault (s : State) (len : Word) (cycles : Nat) : (s.advance len cycles).fault = s.fault := rfl

@[simp] theorem State.advance_eiDelay (s : State) (len : Word) (cycles : Nat) : (s.advance len cycles).eiDelay = s.eiDelay := rfl

@[simp] theorem State.advance_nmiPending (s : State) (len : Word) (cycles : Nat) : (s.advance len cycles).nmiPending = s.nmiPending := rfl

@[simp] theorem State.advance_intLine (s : State) (len : Word) (cycles : Nat) : (s.advance len cycles).intLine = s.intLine := rfl

@[simp] theorem State.advance_intData (s : State) (len : Word) (cycles : Nat) : (s.advance len cycles).intData = s.intData := rfl

@[simp] theorem State.advance_mc (s : State) (len : Word) (cycles : Nat) : (s.advance len cycles).mc = s.mc := rfl

@[simp] theorem State.advance_cfg (s : State) (len : Word) (cycles : Nat) : (s.advance len cycles).cfg = s.cfg := rfl

@[simp] theorem State.advance_draws (s : State) (len : Word) (cycles : Nat) : (s.advance len cycles).draws = s.draws := rfl

@[simp] theorem State.advance_ioInput (s : State) (len : Word) (cycles : Nat) : (s.advance len cycles).ioInput = s.ioInput := rfl

@[simp] theorem State.advance_ioEvents (s : State) (len : Word) (cycles : Nat) : (s.advance len cycles).ioEvents = s.ioEvents := rfl

@[simp] theorem State.advance_memRead (s : State) (len : Word) (cycles : Nat) (x : Word) : (s.advance len cycles).memRead x = s.memRead x := rfl

@[simp] theorem State.advance_reg8 (s : State) (len : Word) (cycles : Nat) (q : Reg8) : (s.advance len cycles).reg8 q = s.reg8 q := by cases q <;> rfl

@[simp] theorem State.advance_bc (s : State) (len : Word) (cycles : Nat) : (s.advance len cycles).bc = s.bc := rfl

@[simp] theorem State.advance_de (s : State) (len : Word) (cycles : Nat) : (s.advance len cycles).de = s.de := rfl

@[simp] theorem State.advance_hl (s : State) (len : Word) (cycles : Nat) : (s.advance len cycles).hl = s.hl := rfl

@[simp] theorem State.advance_idx (s : State) (len : Word) (cycles : Nat) (z : IdxReg) : (s.advance len cycles).idx z = s.idx z := by cases z <;> rfl

/-! ### goto -/

@[simp] theorem State.goto_main (s : State) (target : Word) (cycles : Nat) : (s.goto target cycles).main = s.main := rfl

@[simp] theorem State.goto_alt (s : State) (target : Word) (cycles : Nat) : (s.goto target cycles).alt = s.alt := rfl

@[simp] theorem State.goto_ix (s : State) (target : Word) (cycles : Nat) : (s.goto target cycles).ix = s.ix := rfl

@[simp] theorem State.goto_iy (s : State) (target : Word) (cycles : Nat) : (s.goto target cycles).iy = s.iy := rfl

@[simp] theorem State.goto_sp (s : State) (target : Word) (cycles : Nat) : (s.goto target cycles).sp = s.sp := rfl

@[simp] theorem State.goto_regI (s : State) (target : Word) (cycles : Nat) : (s.goto target cycles).regI = s.regI := rfl

@[simp] theorem State.goto_regR (s : State) (target : Word) (cycles : Nat) : (s.goto target cycles).regR = s.regR := rfl

@[simp] theorem State.goto_iff1 (s : State) (target : Word) (cycles : Nat) : (s.goto target cycles).iff1 = s.iff1 := rfl

@[simp] theorem State.goto_iff2 (s : State) (target : Word) (cycles : Nat) : (s.goto target cycles).iff2 = s.iff2 := rfl

@[simp] theorem State.goto_im (s : State) (target : Word) (cycles : Nat) : (s.goto target cycles).im = s.im := rfl

@[simp] theorem State.goto_halted (s : State) (target : Word) (cycles : Nat) : (s.goto target cycles).halted = s.halted := rfl

@[simp] theorem State.goto_fault (s : State) (target : Word) (cycles : Nat) : (s.goto target cycles).fault = s.fault := rfl

@[simp] theorem State.goto_eiDelay (s : State) (target : Word) (cycles : Nat) : (s.goto target cycles).eiDelay = s.eiDelay := rfl

@[simp] theorem State.goto_nmiPending (s : State) (target : Word) (cycles : Nat) : (s.goto target cycles).nmiPending = s.nmiPending := rfl

@[simp] theorem State.goto_intLine (s : State) (target : Word) (cycles : Nat) : (s.goto target cycles).intLine = s.intLine := rfl

@[simp] theorem State.goto_intData (s : State) (target : Word) (cycles : Nat) : (s.goto target cycles).intData = s.intData := rfl

@[simp] theorem State.goto_mc (s : State) (target : Word) (cycles : Nat) : (s.goto target cycles).mc = s.mc := rfl

@[simp] theorem State.goto_cfg (s : State) (target : Word) (cycles : Nat) : (s.goto target cycles).cfg = s.cfg := rfl

@[simp] theorem State.goto_draws (s : State) (target : Word) (cycles : Nat) : (s.goto target cycles).draws = s.draws := rfl

@[simp] theorem State.goto_ioInput (s : State) (target : Word) (cycles : Nat) : (s.goto target cycles).ioInput = s.ioInput := rfl

@[simp] theorem State.goto_ioEvents (s : State) (target : Word) (cycles : Nat) : (s.goto target cycles).ioEvents = s.ioEvents := rfl

@[simp] theorem State.goto_memRead (s : State) (target : Word) (cycles : Nat) (x : Word) : (s.goto target cycles).memRead x = s.memRead x := rfl

@[simp] theorem State.goto_reg8 (s : State) (target : Word) (cycles : Nat) (q : Reg8) : (s.goto target cycles).reg8 q = s.reg8 q := by cases q <;> rfl

@[simp] theorem State.goto_bc (s : State) (target : Word) (cycles : Nat) : (s.goto target cycles).bc = s.bc := rfl

@[simp] theorem State.goto_de (s : State) (target : Word) (cycles : Nat) : (s.goto target cycles).de = s.de := rfl

@[simp] theorem State.goto_hl (s : State) (target : Word) (cycles : Nat) : (s.goto target cycles).hl = s.hl := rfl

@[simp] theorem State.goto_idx (s : State) (target : Word) (cycles : Nat) (z : IdxReg) : (s.goto target cycles).idx z = s.idx z := by cases z <;> rfl

/-! ### endIteration -/

@[simp] theorem State.endIteration_main (s : State) (again : Bool) : (s.endIteration again).main = s.main := by cases again <;> rfl

@[simp] theorem State.endIteration_alt (s : State) (again : Bool) : (s.endIteration again).alt = s.alt := by cases again <;> rfl

@[simp] theorem State.endIteration_ix (s : State) (again : Bool) : (s.endIteration again).ix = s.ix := by cases again <;> rfl

@[simp] theorem State.endIteration_iy (s : State) (again : Bool) : (s.endIteration again).iy = s.iy := by cases again <;> rfl

@[simp] theorem State.endIteration_sp (s : State) (again : Bool) : (s.endIteration again).sp = s.sp := by cases again <;> rfl

@[simp] theorem State.endIteration_regI (s : State) (again : Bool) : (s.endIteration again).regI = s.regI := by cases again <;> rfl

@[simp] theorem State.endIteration_regR (s : State) (again : Bool) : (s.endIteration again).regR = s.regR := by cases again <;> rfl

@[simp] theorem State.endIteration_iff1 (s : State) (again : Bool) : (s.endIteration again).iff1 = s.iff1 := by cases again <;> rfl

@[simp] theorem State.endIteration_iff2 (s : State) (again : Bool) : (s.endIteration again).iff2 = s.iff2 := by cases again <;> rfl

@[simp] theorem State.endIteration_im (s : State) (again : Bool) : (s.endIteration again).im = s.im := by cases again <;> rfl

@[simp] theorem State.endIteration_halted (s : State) (again : Bool) : (s.endIteration again).halted = s.halted := by cases again <;> rfl

@[simp] theorem State.endIteration_fault (s : State) (again : Bool) : (s.endIteration again).fault = s.fault := by cases again <;> rfl

@[simp] theorem State.endIteration_eiDelay (s : State) (again : Bool) : (s.endIteration again).eiDelay = s.eiDelay := by cases again <;> rfl

@[simp] theorem State.endIteration_nmiPending (s : State) (again : Bool) : (s.endIteration again).nmiPending = s.nmiPending := by cases again <;> rfl

@[simp] theorem State.endIteration_intLine (s : State) (again : Bool) : (s.endIteration again).intLine = s.intLine := by cases again <;> rfl

@[simp] theorem State.endIteration_intData (s : State) (again : Bool) : (s.endIteration again).intData = s.intData := by cases again <;> rfl

@[simp] theorem State.endIteration_mc (s : State) (again : Bool) : (s.endIteration again).mc = s.mc := by cases again <;> rfl

@[simp] theorem State.endIteration_cfg (s : State) (again : Bool) : (s.endIteration again).cfg = s.cfg := by cases again <;> rfl

@[simp] theorem State.endIteration_draws (s : State) (again : Bool) : (s.endIteration again).draws = s.draws := by cases again <;> rfl

@[simp] theorem State.endIteration_ioInput (s : State) (again : Bool) : (s.endIteration again).ioInput = s.ioInput := by cases again <;> rfl

@[simp] theorem State.endIteration_ioEvents (s : State) (again : Bool) : (s.endIteration again).ioEvents = s.ioEvents := by cases again <;> rfl

@[simp] theorem State.endIteration_memRead (s : State) (again : Bool) (x : Word) : (s.endIteration again).memRead x = s.memRead x := by cases again <;> rfl

@[simp] theorem State.endIteration_reg8 (s : State) (again : Bool) (q : Reg8) : (s.endIteration again).reg8 q = s.reg8 q := by cases again <;> cases q <;> rfl

@[simp] theorem State.endIteration_bc (s : State) (again : Bool) : (s.endIteration again).bc = s.bc := by cases again <;> rfl

@[simp] theorem State.endIteration_de (s : State) (again : Bool) : (s.endIteration again).de = s.de := by cases again <;> rfl

@[simp] theorem State.endIteration_hl (s : State) (again : Bool) : (s.endIteration again).hl = s.hl := by cases again <;> rfl

@[simp] theorem State.endIteration_idx (s : State) (again : Bool) (z : IdxReg) : (s.endIteration again).idx z = s.idx z := by cases again <;> cases z <;> rfl

/-! ### ioRead -/

@[simp] theorem State.ioRead_main (s : State) (port : Word) : (s.ioRead port).main = s.main := rfl

@[simp] theorem State.ioRead_alt (s : State) (port : Word) : (s.ioRead port).alt = s.alt := rfl

@[simp] theorem State.ioRead_ix (s : State) (port : Word) : (s.ioRead port).ix = s.ix := rfl

@[simp] theorem State.ioRead_iy (s : State) (port : Word) : (s.ioRead port).iy = s.iy := rfl

@[simp] theorem State.ioRead_sp (s : State) (port : Word) : (s.ioRead port).sp = s.sp := rfl

@[simp] theorem State.ioRead_pc (s : State) (port : Word) : (s.ioRead port).pc = s.pc := rfl

@[simp] theorem State.ioRead_regI (s : State) (port : Word) : (s.ioRead port).regI = s.regI := rfl

@[simp] theorem State.ioRead_regR (s : State) (port : Word) : (s.ioRead port).regR = s.regR := rfl

@[simp] theorem State.ioRead_iff1 (s : State) (port : Word) : (s.ioRead port).iff1 = s.iff1 := rfl

@[simp] theorem State.ioRead_iff2 (s : State) (port : Word) : (s.ioRead port).iff2 = s.iff2 := rfl

@[simp] theorem State.ioRead_im (s : State) (port : Word) : (s.ioRead port).im = s.im := rfl

@[simp] theorem State.ioRead_halted (s : State) (port : Word) : (s.ioRead port).halted = s.halted := rfl

@[simp] theorem State.ioRead_fault (s : State) (port : Word) : (s.ioRead port).fault = s.fault := rfl

@[simp] theorem State.ioRead_lastCycles (s : State) (port : Word) : (s.ioRead port).lastCycles = s.lastCycles := rfl

@[simp] theorem State.ioRead_eiDelay (s : State) (port : Word) : (s.ioRead port).eiDelay = s.eiDelay := rfl

@[simp] theorem State.ioRead_nmiPending (s : State) (port : Word) : (s.ioRead port).nmiPending = s.nmiPending := rfl

@[simp] theorem State.ioRead_intLine (s : State) (port : Word) : (s.ioRead port).intLine = s.intLine := rfl

@[simp] theorem State.ioRead_intData (s : State) (port : Word) : (s.ioRead port).intData = s.intData := rfl

@[simp] theorem State.ioRead_mc (s : State) (port : Word) : (s.ioRead port).mc = s.mc := rfl

@[simp] theorem State.ioRead_cfg (s : State) (port : Word) : (s.ioRead port).cfg = s.cfg := rfl

@[simp] theorem State.ioRead_draws (s : State) (port : Word) : (s.ioRead port).draws = s.draws := rfl

@[simp] theorem State.ioRead_memRead (s : State) (port : Word) (x : Word) : (s.ioRead port).memRead x = s.memRead x := rfl

@[simp] theorem State.ioRead_reg8 (s : State) (port : Word) (q : Reg8) : (s.ioRead port).reg8 q = s.reg8 q := by cases q <;> rfl

@[simp] theorem State.ioRead_bc (s : State) (port : Word) : (s.ioRead port).bc = s.bc := rfl

@[simp] theorem State.ioRead_de (s : State) (port : Word) : (s.ioRead port).de = s.de := rfl

@[simp] theorem State.ioRead_hl (s : State) (port : Word) : (s.ioRead port).hl = s.hl := rfl

@[simp] theorem State.ioRead_idx (s : State) (port : Word) (z : IdxReg) : (s.ioRead port).idx z = s.idx z := by cases z <;> rfl

/-! ### ioWrite -/

@[simp] theorem State.ioWrite_main (s : State) (port : Word) (v : Byte) : (s.ioWrite port v).main = s.main := rfl

@[simp] theorem State.ioWrite_alt (s : State) (port : Word) (v : Byte) : (s.ioWrite port v).alt = s.alt := rfl

@[simp] theorem State.ioWrite_ix (s : State) (port : Word) (v : Byte) : (s.ioWrite port v).ix = s.ix := rfl

@[simp] theorem State.ioWrite_iy (s : State) (port : Word) (v : Byte) : (s.ioWrite port v).iy = s.iy := rfl

@[simp] theorem State.ioWrite_sp (s : State) (port : Word) (v : Byte) : (s.ioWrite port v).sp = s.sp := rfl

@[simp] theorem State.ioWrite_pc (s : State) (port : Word) (v : Byte) : (s.ioWrite port v).pc = s.pc := rfl

@[simp] theorem State.ioWrite_regI (s : State) (port : Word) (v : Byte) : (s.ioWrite port v).regI = s.regI := rfl

@[simp] theorem State.ioWrite_regR (s : State) (port : Word) (v : Byte) : (s.ioWrite port v).regR = s.regR := rfl

@[simp] theorem State.ioWrite_iff1 (s : State) (port : Word) (v : Byte) : (s.ioWrite port v).iff1 = s.iff1 := rfl

@[simp] theorem State.ioWrite_iff2 (s : State) (port : Word) (v : Byte) : (s.ioWrite port v).iff2 = s.iff2 := rfl

@[simp] theorem State.ioWrite_im (s : State) (port : Word) (v : Byte) : (s.ioWrite port v).im = s.im := rfl

@[simp] theorem State.ioWrite_halted (s : State) (port : Word) (v : Byte) : (s.ioWrite port v).halted = s.halted := rfl

@[simp] theorem State.ioWrite_fault (s : State) (port : Word) (v : Byte) : (s.ioWrite port v).fault = s.fault := rfl

@[simp] theorem State.ioWrite_lastCycles (s : State) (port : Word) (v : Byte) : (s.ioWrite port v).lastCycles = s.lastCycles := rfl

@[simp] theorem State.ioWrite_eiDelay (s : State) (port : Word) (v : Byte) : (s.ioWrite port v).eiDelay = s.eiDelay := rfl

@[simp] theorem State.ioWrite_nmiPending (s : State) (port : Word) (v : Byte) : (s.ioWrite port v).nmiPending = s.nmiPending := rfl

@[simp] theorem State.ioWrite_intLine (s : State) (port : Word) (v : Byte) : (s.ioWrite port v).intLine = s.intLine := rfl

@[simp] theorem State.ioWrite_intData (s : State) (port : Word) (v : Byte) : (s.ioWrite port v).intData = s.intData := rfl

@[simp] theorem State.ioWrite_mc (s : State) (port : Word) (v : Byte) : (s.ioWrite port v).mc = s.mc := rfl

@[simp] theorem State.ioWrite_cfg (s : State) (port : Word) (v : Byte) : (s.ioWrite port v).cfg = s.cfg := rfl

@[simp] theorem State.ioWrite_draws (s : State) (port : Word) (v : Byte) : (s.ioWrite port v).draws = s.draws := rfl

@[simp] theorem State.ioWrite_ioInput (s : State) (port : Word) (v : Byte) : (s.ioWrite port v).ioInput = s.ioInput := rfl

@[simp] theorem State.ioWrite_memRead (s : State) (port : Word) (v : Byte) (x : Word) : (s.ioWrite port v).memRead x = s.memRead x := rfl

@[simp] theorem State.ioWrite_reg8 (s : State) (port : Word) (v : Byte) (q : Reg8) : (s.ioWrite port v).reg8 q = s.reg8 q := by cases q <;> rfl

@[simp] theorem State.ioWrite_bc (s : State) (port : Word) (v : Byte) : (s.ioWrite port v).bc = s.bc := rfl

@[simp] theorem State.ioWrite_de (s : State) (port : Word) (v : Byte) : (s.ioWrite port v).de = s.de := rfl

@[simp] theorem State.ioWrite_hl (s : State) (port : Word) (v : Byte) : (s.ioWrite port v).hl = s.hl := rfl

@[simp] theorem State.ioWrite_idx (s : State) (port : Word) (v : Byte) (z : IdxReg) : (s.ioWrite port v).idx z = s.idx z := by cases z <;> rfl

/-! ### useDraws -/

@[simp] theorem State.useDraws_main (s : State) (k : Nat) : (s.useDraws k).main = s.main := rfl

@[simp] theorem State.useDraws_alt (s : State) (k : Nat) : (s.useDraws k).alt = s.alt := rfl

@[simp] theorem State.useDraws_ix (s : State) (k : Nat) : (s.useDraws k).ix = s.ix := rfl

@[simp] theorem State.useDraws_iy (s : State) (k : Nat) : (s.useDraws k).iy = s.iy := rfl

@[simp] theorem State.useDraws_sp (s : State) (k : Nat) : (s.useDraws k).sp = s.sp := rfl

@[simp] theorem State.useDraws_pc (s : State) (k : Nat) : (s.useDraws k).pc = s.pc := rfl

@[simp] theorem State.useDraws_regI (s : State) (k : Nat) : (s.useDraws k).regI = s.regI := rfl

@[simp] theorem State.useDraws_regR (s : State) (k : Nat) : (s.useDraws k).regR = s.regR := rfl

@[simp] theorem State.useDraws_iff1 (s : State) (k : Nat) : (s.useDraws k).iff1 = s.iff1 := rfl

@[simp] theorem State.useDraws_iff2 (s : State) (k : Nat) : (s.useDraws k).iff2 = s.iff2 := rfl

@[simp] theorem State.useDraws_im (s : State) (k : Nat) : (s.useDraws k).im = s.im := rfl

@[simp] theorem State.useDraws_halted (s : State) (k : Nat) : (s.useDraws k).halted = s.halted := rfl

@[simp] theorem State.useDraws_fault (s : State) (k : Nat) : (s.useDraws k).fault = s.fault := rfl

@[simp] theorem State.useDraws_lastCycles (s : State) (k : Nat) : (s.useDraws k).lastCycles = s.lastCycles := rfl

@[simp] theorem State.useDraws_eiDelay (s : State) (k : Nat) : (s.useDraws k).eiDelay = s.eiDelay := rfl

@[simp] theorem State.useDraws_nmiPending (s : State) (k : Nat) : (s.useDraws k).nmiPending = s.nmiPending := rfl

@[simp] theorem State.useDraws_intLine (s : State) (k : Nat) : (s.useDraws k).intLine = s.intLine := rfl

@[simp] theorem State.useDraws_intData (s : State) (k : Nat) : (s.useDraws k).intData = s.intData := rfl

@[simp] theorem State.useDraws_mc (s : State) (k : Nat) : (s.useDraws k).mc = s.mc := rfl

@[simp] theorem State.useDraws_cfg (s : State) (k : Nat) : (s.useDraws k).cfg = s.cfg := rfl

@[simp] theorem State.useDraws_ioInput (s : State) (k : Nat) : (s.useDraws k).ioInput = s.ioInput := rfl

@[simp] theorem State.useDraws_ioEvents (s : State) (k : Nat) : (s.useDraws k).ioEvents = s.ioEvents := rfl

@[simp] theorem State.useDraws_memRead (s : State) (k : Nat) (x : Word) : (s.useDraws k).memRead x = s.memRead x := rfl

@[simp] theorem State.useDraws_reg8 (s : State) (k : Nat) (q : Reg8) : (s.useDraws k).reg8 q = s.reg8 q := by cases q <;> rfl

@[simp] theorem State.useDraws_bc (s : State) (k : Nat) : (s.useDraws k).bc = s.bc := rfl

@[simp] theorem State.useDraws_de (s : State) (k : Nat) : (s.useDraws k).de = s.de := rfl

@[simp] theorem State.useDraws_hl (s : State) (k : Nat) : (s.useDraws k).hl = s.hl := rfl

@[simp] theorem State.useDraws_idx (s : State) (k : Nat) (z : IdxReg) : (s.useDraws k).idx z = s.idx z := by cases z <;> rfl

/-! ### writeFlags -/

@[simp] theorem State.writeFlags_alt (s : State) (f : FlagReg) : (s.writeFlags f).alt = s.alt := rfl

@[simp] theorem State.writeFlags_ix (s : State) (f : FlagReg) : (s.writeFlags f).ix = s.ix := rfl

@[simp] theorem State.writeFlags_iy (s : State) (f : FlagReg) : (s.writeFlags f).iy = s.iy := rfl

@[simp] theorem State.writeFlags_sp (s : State) (f : FlagReg) : (s.writeFlags f).sp = s.sp := rfl

@[simp] theorem State.writeFlags_pc (s : State) (f : FlagReg) : (s.writeFlags f).pc = s.pc := rfl

@[simp] theorem State.writeFlags_regI (s : State) (f : FlagReg) : (s.writeFlags f).regI = s.regI := rfl

@[simp] theorem State.writeFlags_regR (s : State) (f : FlagReg) : (s.writeFlags f).regR = s.regR := rfl

@[simp] theorem State.writeFlags_iff1 (s : State) (f : FlagReg) : (s.writeFlags f).iff1 = s.iff1 := rfl

@[simp] theorem State.writeFlags_iff2 (s : State) (f : FlagReg) : (s.writeFlags f).iff2 = s.iff2 := rfl

@[simp] theorem State.writeFlags_im (s : State) (f : FlagReg) : (s.writeFlags f).im = s.im := rfl

@[simp] theorem State.writeFlags_halted (s : State) (f : FlagReg) : (s.writeFlags f).halted = s.halted := rfl

@[simp] theorem State.writeFlags_fault (s : State) (f : FlagReg) : (s.writeFlags f).fault = s.fault := rfl

@[simp] theorem State.writeFlags_lastCycles (s : State) (f : FlagReg) : (s.writeFlags f).lastCycles = s.lastCycles := rfl

@[simp] theorem State.writeFlags_eiDelay (s : State) (f : FlagReg) : (s.writeFlags f).eiDelay = s.eiDelay := rfl

@[simp] theorem State.writeFlags_nmiPending (s : State) (f : FlagReg) : (s.writeFlags f).nmiPending = s.nmiPending := rfl

@[simp] theorem State.writeFlags_intLine (s : State) (f : FlagReg) : (s.writeFlags f).intLine = s.intLine := rfl

@[simp] theorem State.writeFlags_intData (s : State) (f : FlagReg) : (s.writeFlags f).intData = s.intData := rfl

@[simp] theorem State.writeFlags_mc (s : State) (f : FlagReg) : (s.writeFlags f).mc = s.mc := rfl

@[simp] theorem State.writeFlags_cfg (s : State) (f : FlagReg) : (s.writeFlags f).cfg = s.cfg := rfl

@[simp] theorem State.writeFlags_ioInput (s : State) (f : FlagReg) : (s.writeFlags f).ioInput = s.ioInput := rfl

@[simp] theorem State.writeFlags_ioEvents (s : State) (f : FlagReg) : (s.writeFlags f).ioEvents = s.ioEvents := rfl

@[simp] theorem State.writeFlags_memRead (s : State) (f : FlagReg) (x : Word) : (s.writeFlags f).memRead x = s.memRead x := rfl

@[simp] theorem State.writeFlags_idx (s : State) (f : FlagReg) (z : IdxReg) : (s.writeFlags f).idx z = s.idx z := by cases z <;> rfl

/-! ### refresh -/

@[simp] theorem State.refresh_main (s : State) : (s.refresh).main = s.main := rfl

@[simp] theorem State.refresh_alt (s : State) : (s.refresh).alt = s.alt := rfl

@[simp] theorem State.refresh_ix (s : State) : (s.refresh).ix = s.ix := rfl

@[simp] theorem State.refresh_iy (s : State) : (s.refresh).iy = s.iy := rfl

@[simp] theorem State.refresh_sp (s : State) : (s.refresh).sp = s.sp := rfl

@[simp] theorem State.refresh_pc (s : State) : (s.refresh).pc = s.pc := rfl

@[simp] theorem State.refresh_regI (s : State) : (s.refresh).regI = s.regI := rfl

@[simp] theorem State.refresh_iff1 (s : State) : (s.refresh).iff1 = s.iff1 := rfl

@[simp] theorem State.refresh_iff2 (s : State) : (s.refresh).iff2 = s.iff2 := rfl

@[simp] theorem State.refresh_im (s : State) : (s.refresh).im = s.im := rfl

@[simp] theorem State.refresh_halted (s : State) : (s.refresh).halted = s.halted := rfl

@[simp] theorem State.refresh_fault (s : State) : (s.refresh).fault = s.fault := rfl

@[simp] theorem State.refresh_lastCycles (s : State) : (s.refresh).lastCycles = s.lastCycles := rfl

@[simp] theorem State.refresh_eiDelay (s : State) : (s.refresh).eiDelay = s.eiDelay := rfl

@[simp] theorem State.refresh_nmiPending (s : State) : (s.refresh).nmiPending = s.nmiPending := rfl

@[simp] theorem State.refresh_intLine (s : State) : (s.refresh).intLine = s.intLine := rfl

@[simp] theorem State.refresh_intData (s : State) : (s.refresh).intData = s.intData := rfl

@[simp] theorem State.refresh_mc (s : State) : (s.refresh).mc = s.mc := rfl

@[simp] theorem State.refresh_cfg (s : State) : (s.refresh).cfg = s.cfg := rfl

@[simp] theorem State.refresh_draws (s : State) : (s.refresh).draws = s.draws := rfl

@[simp] theorem State.refresh_ioInput (s : State) : (s.refresh).ioInput = s.ioInput := rfl

@[simp] theorem State.refresh_ioEvents (s : State) : (s.refresh).ioEvents = s.ioEvents := rfl

@[simp] theorem State.refresh_memRead (s : State) (x : Word) : (s.refresh).memRead x = s.memRead x := rfl

@[simp] theorem State.refresh_reg8 (s : State) (q : Reg8) : (s.refresh).reg8 q = s.reg8 q := by cases q <;> rfl

@[simp] theorem State.refresh_bc (s : State) : (s.refresh).bc = s.bc := rfl

@[simp] theorem State.refresh_de (s : State) : (s.refresh).de = s.de := rfl

@[simp] theorem State.refresh_hl (s : State) : (s.refresh).hl = s.hl := rfl

@[simp] theorem State.refresh_idx (s : State) (z : IdxReg) : (s.refresh).idx z = s.idx z := by cases z <;> rfl

/-! ### raiseUnimplemented -/

@[simp] theorem State.raiseUnimplemented_main (s : State) (p : Word) (bs : List Byte) : (s.raiseUnimplemented p bs).main = s.main := rfl

@[simp] theorem State.raiseUnimplemented_alt (s : State) (p : Word) (bs : List Byte) : (s.raiseUnimplemented p bs).alt = s.alt := rfl

@[simp] theorem State.raiseUnimplemented_ix (s : State) (p : Word) (bs : List Byte) : (s.raiseUnimplemented p bs).ix = s.ix := rfl

@[simp] theorem State.raiseUnimplemented_iy (s : State) (p : Word) (bs : List Byte) : (s.raiseUnimplemented p bs).iy = s.iy := rfl

@[simp] theorem State.raiseUnimplemented_sp (s : State) (p : Word) (bs : List Byte) : (s.raiseUnimplemented p bs).sp = s.sp := rfl

@[simp] theorem State.raiseUnimplemented_pc (s : State) (p : Word) (bs : List Byte) : (s.raiseUnimplemented p bs).pc = s.pc := rfl

@[simp] theorem State.raiseUnimplemented_regI (s : State) (p : Word) (bs : List Byte) : (s.raiseUnimplemented p bs).regI = s.regI := rfl

@[simp] theorem State.raiseUnimplemented_regR (s : State) (p : Word) (bs : List Byte) : (s.raiseUnimplemented p bs).regR = s.regR := rfl

@[simp] theorem State.raiseUnimplemented_iff1 (s : State) (p : Word) (bs : List Byte) : (s.raiseUnimplemented p bs).iff1 = s.iff1 := rfl

@[simp] theorem State.raiseUnimplemented_iff2 (s : State) (p : Word) (bs : List Byte) : (s.raiseUnimplemented p bs).iff2 = s.iff2 := rfl

@[simp] theorem State.raiseUnimplemented_im (s : State) (p : Word) (bs : List Byte) : (s.raiseUnimplemented p bs).im = s.im := rfl

@[simp] theorem State.raiseUnimplemented_halted (s : State) (p : Word) (bs : List Byte) : (s.raiseUnimplemented p bs).halted = s.halted := rfl

@[simp] theorem State.raiseUnimplemented_eiDelay (s : State) (p : Word) (bs : List Byte) : (s.raiseUnimplemented p bs).eiDelay = s.eiDelay := rfl

@[simp] theorem State.raiseUnimplemented_nmiPending (s : State) (p : Word) (bs : List Byte) : (s.raiseUnimplemented p bs).nmiPending = s.nmiPending := rfl

@[simp] theorem State.raiseUnimplemented_intLine (s : State) (p : Word) (bs : List Byte) : (s.raiseUnimplemented p bs).intLine = s.intLine := rfl

@[simp] theorem State.raiseUnimplemented_intData (s : State) (p : Word) (bs : List Byte) : (s.raiseUnimplemented p bs).intData = s.intData := rfl

@[simp] theorem State.raiseUnimplemented_mc (s : State) (p : Word) (bs : List Byte) : (s.raiseUnimplemented p bs).mc = s.mc := rfl

@[simp] theorem State.raiseUnimplemented_cfg (s : State) (p : Word) (bs : List Byte) : (s.raiseUnimplemented p bs).cfg = s.cfg := rfl

@[simp] theorem State.raiseUnimplemented_draws (s : State) (p : Word) (bs : List Byte) : (s.raiseUnimplemented p bs).draws = s.draws := rfl

@[simp] theorem State.raiseUnimplemented_ioInput (s : State) (p : Word) (bs : List Byte) : (s.raiseUnimplemented p bs).ioInput = s.ioInput := rfl

@[simp] theorem State.raiseUnimplemented_ioEvents (s : State) (p : Word) (bs : List Byte) : (s.raiseUnimplemented p bs).ioEvents = s.ioEvents := rfl

@[simp] theorem State.raiseUnimplemented_memRead (s : State) (p : Word) (bs : List Byte) (x : Word) : (s.raiseUnimplemented p bs).memRead x = s.memRead x := rfl

@[simp] theorem State.raiseUnimplemented_reg8 (s : State) (p : Word) (bs : List Byte) (q : Reg8) : (s.raiseUnimplemented p bs).reg8 q = s.reg8 q := by cases q <;> rfl

@[simp] theorem State.raiseUnimplemented_bc (s : State) (p : Word) (bs : List Byte) : (s.raiseUnimplemented p bs).bc = s.bc := rfl

@[simp] theorem State.raiseUnimplemented_de (s : State) (p : Word) (bs : List Byte) : (s.raiseUnimplemented p bs).de = s.de := rfl

@[simp] theorem State.raiseUnimplemented_hl (s : State) (p : Word) (bs : List Byte) : (s.raiseUnimplemented p bs).hl = s.hl := rfl

@[simp] theorem State.raiseUnimplemented_idx (s : State) (p : Word) (bs : List Byte) (z : IdxReg) : (s.raiseUnimplemented p bs).idx z = s.idx z := by cases z <;> rfl

/-! ### What the updates set -/

@[simp] theorem State.advance_pc (s : State) (len : Word) (n : Nat) : (s.advance len n).pc = s.pc + len := rfl

@[simp] theorem State.advance_lastCycles (s : State) (len : Word) (n : Nat) : (s.advance len n).lastCycles = n := rfl

@[simp] theorem State.goto_pc (s : State) (w : Word) (n : Nat) : (s.goto w n).pc = w := rfl

@[simp] theorem State.goto_lastCycles (s : State) (w : Word) (n : Nat) : (s.goto w n).lastCycles = n := rfl

theorem State.endIteration_pc (s : State) (again : Bool) :
    (s.endIteration again).pc = if again then s.pc else s.pc + 2#16 := by cases again <;> rfl

theorem State.endIteration_lastCycles (s : State) (again : Bool) :
    (s.endIteration again).lastCycles = if again then 21 else 16 := by cases again <;> rfl

@[simp] theorem State.dropTop_sp (s : State) : s.dropTop.sp = s.sp + 2#16 := rfl

@[simp] theorem State.useDraws_draws (s : State) (k : Nat) : (s.useDraws k).draws = s.draws + k := rfl

@[simp] theorem State.writeFlags_draws (s : State) (f : FlagReg) : (s.writeFlags f).draws = s.draws + 2 := rfl

@[simp] theorem State.memWrite_mc (s : State) (a : Word) (v : Byte) : (s.memWrite a v).mc = s.mc.write a v := rfl

@[simp] theorem State.memWrite16_mc (s : State) (a w : Word) :
    (s.memWrite16 a w).mc = (s.mc.write a (lo8 w)).write (a + 1#16) (hi8 w) := rfl

@[simp] theorem State.push16_mc (s : State) (w : Word) :
    (s.push16 w).mc = (s.mc.write (s.sp - 1#16) (hi8 w)).write (s.sp - 1#16 - 1#16) (lo8 w) := rfl

@[simp] theorem State.setDe_hl (s : State) (w : Word) : (s.setDe w).hl = s.hl := rfl

@[simp] theorem State.setHl_de (s : State) (w : Word) : (s.setHl w).de = s.de := rfl

@[simp] theorem State.setHl_bc (s : State) (w : Word) : (s.setHl w).bc = s.bc := rfl

@[simp] theorem State.setDe_bc (s : State) (w : Word) : (s.setDe w).bc = s.bc := rfl

@[simp] theorem State.setBc_hl (s : State) (w : Word) : (s.setBc w).hl = s.hl := rfl

@[simp] theorem State.setBc_de (s : State) (w : Word) : (s.setBc w).de = s.de := rfl

@[simp] theorem State.setIdx_idx_same (s : State) (xy : IdxReg) (w : Word) : (s.setIdx xy w).idx xy = w := by
  cases xy <;> rfl

theorem State.setIdx_idx_other (s : State) (xy z : IdxReg) (w : Word) (h : z ≠ xy) :
    (s.setIdx xy w).idx z = s.idx z := by
  cases xy <;> cases z <;> first | rfl | exact absurd rfl h

@[simp] theorem State.setReg8_reg8_same (s : State) (r : Reg8) (v : Byte) : (s.setReg8 r v).reg8 r = v := by
  cases r <;> rfl

theorem State.setReg8_reg8_other (s : State) (r q : Reg8) (v : Byte) (h : q ≠ r) :
    (s.setReg8 r v).reg8 q = s.reg8 q := by
  cases r <;> cases q <;> first | rfl | exact absurd rfl h

@[simp] theorem State.setReg8_f (s : State) (r : Reg8) (v : Byte) : (s.setReg8 r v).main.f = s.main.f := by
  cases r <;> rfl

@[simp] theorem State.setA_a (s : State) (v : Byte) : (s.setA v).main.a = v := rfl

@[simp] theorem State.setA_f (s : State) (v : Byte) : (s.setA v).main.f = s.main.f := rfl

theorem State.setA_reg8_other (s : State) (q : Reg8) (v : Byte) (h : q ≠ .a) : (s.setA v).reg8 q = s.reg8 q := by
  cases q <;> first | rfl | exact absurd rfl h

@[simp] theorem State.writeFlags_reg8 (s : State) (f : FlagReg) (q : Reg8) : (s.writeFlags f).reg8 q = s.reg8 q := by
  cases q <;> rfl

@[simp] theorem State.writeFlags_a (s : State) (f : FlagReg) : (s.writeFlags f).main.a = s.main.a := rfl

@[simp] theorem State.writeFlags_bc (s : State) (f : FlagReg) : (s.writeFlags f).bc = s.bc := rfl

@[simp] theorem State.writeFlags_de (s : State) (f : FlagReg) : (s.writeFlags f).de = s.de := rfl

@[simp] theorem State.writeFlags_hl (s : State) (f : FlagReg) : (s.writeFlags f).hl = s.hl := rfl

/-- Writing F sets the six flags with a meaning as asked (10_state.md R28). -/
theorem State.writeFlags_flags (s : State) (f : FlagReg) :
    (s.writeFlags f).main.f.s = f.s ∧ (s.writeFlags f).main.f.z = f.z ∧ (s.writeFlags f).main.f.h = f.h ∧
      (s.writeFlags f).main.f.pv = f.pv ∧ (s.writeFlags f).main.f.n = f.n ∧ (s.writeFlags f).main.f.c = f.c :=
  ⟨rfl, rfl, rfl, rfl, rfl, rfl⟩

@[simp] theorem State.setF_reg8 (s : State) (f : FlagReg) (q : Reg8) : (s.setF f).reg8 q = s.reg8 q := by
  cases q <;> rfl

@[simp] theorem State.setF_f (s : State) (f : FlagReg) : (s.setF f).main.f = f := rfl

@[simp] theorem State.setBc_f (s : State) (w : Word) : (s.setBc w).main.f = s.main.f := rfl

@[simp] theorem State.setDe_f (s : State) (w : Word) : (s.setDe w).main.f = s.main.f := rfl

@[simp] theorem State.setHl_f (s : State) (w : Word) : (s.setHl w).main.f = s.main.f := rfl

@[simp] theorem State.setPair_f (s : State) (dd : Pair) (w : Word) : (s.setPair dd w).main.f = s.main.f := by
  cases dd <;> rfl

@[simp] theorem State.setPair_a (s : State) (dd : Pair) (w : Word) : (s.setPair dd w).main.a = s.main.a := by
  cases dd <;> rfl

end Sys2Proof.Machine
end

