-- ==== Sys2Proof/Laws/Words.lean ====
section
/-! SUPPORT. Halves and concatenation of words, the byte F and its flags, and pairs of the register file. -/

namespace Sys2Proof

theorem pack_toNat (h l : Byte) : (pack h l).toNat = h.toNat * 256 + l.toNat := by
  rw [pack, BitVec.toNat_append, ← Nat.shiftLeft_add_eq_or_of_lt l.isLt, Nat.shiftLeft_eq]

theorem hi8_toNat (w : Word) : (hi8 w).toNat = w.toNat / 256 := by
  have := w.isLt
  simp only [hi8, BitVec.toNat_setWidth, BitVec.toNat_ushiftRight, Nat.shiftRight_eq_div_pow]
  omega

theorem lo8_toNat (w : Word) : (lo8 w).toNat = w.toNat % 256 := by
  simp only [lo8, BitVec.toNat_setWidth]

@[simp] theorem hi8_pack (h l : Byte) : hi8 (pack h l) = h := by
  apply BitVec.eq_of_toNat_eq
  have hl := l.isLt
  rw [hi8_toNat, pack_toNat]; omega

@[simp] theorem lo8_pack (h l : Byte) : lo8 (pack h l) = l := by
  apply BitVec.eq_of_toNat_eq
  have hl := l.isLt
  rw [lo8_toNat, pack_toNat]; omega

@[simp] theorem pack_hi8_lo8 (w : Word) : pack (hi8 w) (lo8 w) = w := by
  apply BitVec.eq_of_toNat_eq
  rw [pack_toNat, hi8_toNat, lo8_toNat]; omega

end Sys2Proof

namespace Sys2Proof.Machine

open Sys2Proof

@[simp] theorem FlagReg.ofByte_toByte (f : FlagReg) : FlagReg.ofByte f.toByte = f := by
  rcases f with ⟨s, z, x5, h, x3, pv, n, c⟩
  cases s <;> cases z <;> cases x5 <;> cases h <;> cases x3 <;> cases pv <;> cases n <;> cases c <;> rfl

@[simp] theorem FlagReg.toByte_ofByte (v : Byte) : (FlagReg.ofByte v).toByte = v := by
  revert v; decide

@[simp] theorem State.setBc_bc (s : State) (w : Word) : (s.setBc w).bc = w := pack_hi8_lo8 w

@[simp] theorem State.setDe_de (s : State) (w : Word) : (s.setDe w).de = w := pack_hi8_lo8 w

@[simp] theorem State.setHl_hl (s : State) (w : Word) : (s.setHl w).hl = w := pack_hi8_lo8 w

@[simp] theorem State.setPair_pair_same (s : State) (dd : Pair) (w : Word) : (s.setPair dd w).pair dd = w := by
  cases dd <;> first | exact pack_hi8_lo8 w | rfl

theorem State.setPair_pair_other (s : State) (dd ee : Pair) (w : Word) (h : ee ≠ dd) :
    (s.setPair dd w).pair ee = s.pair ee := by
  cases dd <;> cases ee <;> first | rfl | exact absurd rfl h

@[simp] theorem State.setStackPair_stackPair_same (s : State) (qq : StackPair) (w : Word) :
    (s.setStackPair qq w).stackPair qq = w := by
  cases qq
  · exact pack_hi8_lo8 w
  · exact pack_hi8_lo8 w
  · exact pack_hi8_lo8 w
  · show pack (hi8 w) (FlagReg.ofByte (lo8 w)).toByte = w
    rw [FlagReg.toByte_ofByte, pack_hi8_lo8]

theorem State.setStackPair_stackPair_other (s : State) (qq rr : StackPair) (w : Word) (h : rr ≠ qq) :
    (s.setStackPair qq w).stackPair rr = s.stackPair rr := by
  cases qq <;> cases rr <;> first | rfl | exact absurd rfl h

end Sys2Proof.Machine
end

