-- ==== Sys2Proof/Laws/Decoder.lean ====
section
/-! SUPPORT. The address decoder: where an address leads, and what a store changes as reads show it. -/

namespace Sys2Proof.Machine

open Sys2Proof

/-! ### What a write keeps -/

@[simp] theorem MemCtl.setTopCell_keeps (m : MemCtl) (j : Nat) (v : Byte) :
    (m.setTopCell j v).image = m.image ∧ (m.setTopCell j v).variant = m.variant ∧
      (m.setTopCell j v).cartLoaded = m.cartLoaded ∧ (m.setTopCell j v).ram = m.ram ∧
      (m.setTopCell j v).cram = m.cram := by
  unfold MemCtl.setTopCell; split <;> exact ⟨rfl, rfl, rfl, rfl, rfl⟩

@[simp] theorem MemCtl.writeAltSlot_keeps (m : MemCtl) (a : Word) (v : Byte) :
    (m.writeAltSlot a v).image = m.image ∧ (m.writeAltSlot a v).variant = m.variant ∧
      (m.writeAltSlot a v).cartLoaded = m.cartLoaded ∧ (m.writeAltSlot a v).ram = m.ram ∧
      (m.writeAltSlot a v).cram = m.cram := by
  unfold MemCtl.writeAltSlot; (repeat' split) <;> exact ⟨rfl, rfl, rfl, rfl, rfl⟩

/-- The image, the variant and cart_loaded survive every write (20_memory.md R61). -/
theorem MemCtl.write_keeps (m : MemCtl) (a : Word) (v : Byte) :
    (m.write a v).image = m.image ∧ (m.write a v).variant = m.variant ∧
      (m.write a v).cartLoaded = m.cartLoaded := by
  unfold MemCtl.write
  split <;> simp

@[simp] theorem MemCtl.write_image (m : MemCtl) (a : Word) (v : Byte) : (m.write a v).image = m.image :=
  (m.write_keeps a v).1

@[simp] theorem MemCtl.write_variant (m : MemCtl) (a : Word) (v : Byte) : (m.write a v).variant = m.variant :=
  (m.write_keeps a v).2.1

@[simp] theorem MemCtl.write_cartLoaded (m : MemCtl) (a : Word) (v : Byte) :
    (m.write a v).cartLoaded = m.cartLoaded :=
  (m.write_keeps a v).2.2

/-! ### Where an address leads -/

theorem MemCtl.ramBank_lt (m : MemCtl) : m.ramBank < 2 := by
  unfold MemCtl.ramBank
  have : ∀ v : Byte, (v &&& 0x01#8).toNat < 2 := by decide
  exact this _

/-- 0xC000 to 0xFFFB lead to the RAM cell of their low 13 bits. -/
theorem MemCtl.place_ram (m : MemCtl) (a : Word) (h : inRam a = true) : m.place a = .ram (a.toNat % 0x2000) := by
  simp only [inRam, Bool.and_eq_true, decide_eq_true_eq] at h
  unfold MemCtl.place
  simp only
  rw [if_neg (by omega)]
  split
  · rw [show a.toNat - 0xC000 = a.toNat % 0x2000 by omega]
  · rw [if_pos (by omega), show a.toNat - 0xE000 = a.toNat % 0x2000 by omega]

/-- 0xFFFC to 0xFFFF lead to the top cells. -/
theorem MemCtl.place_top (m : MemCtl) (a : Word) (h : 0xFFFC ≤ a.toNat) : m.place a = .top (a.toNat - 0xFFFC) := by
  unfold MemCtl.place
  simp only
  rw [if_neg (by omega), if_neg (by omega), if_neg (by omega)]

/-- Slot 2 leads to cartridge RAM while it is enabled. -/
theorem MemCtl.place_cram (m : MemCtl) (a : Word) (h1 : 0x8000 ≤ a.toNat) (h2 : a.toNat < 0xC000)
    (hr : m.ramEnabled = true) : m.place a = .cram (m.ramBank * 0x4000 + (a.toNat - 0x8000)) := by
  unfold MemCtl.place
  simp only
  rw [if_pos h2, if_neg (by omega), if_pos ⟨h1, hr⟩]

/-- The image offset a ROM address leads to. -/
def MemCtl.romOffset (m : MemCtl) (a : Word) : Nat :=
  if m.variant = .standard ∧ a.toNat < 0x0400 then a.toNat
  else a.toNat % 0x4000 + m.pageSel (a.toNat / 0x4000) * 0x4000

/-- The other addresses below 0xC000 lead to ROM. -/
theorem MemCtl.place_rom (m : MemCtl) (a : Word) (h : a.toNat < 0xC000)
    (hr : ¬ (0x8000 ≤ a.toNat ∧ m.ramEnabled = true)) : m.place a = .rom (m.romOffset a) := by
  unfold MemCtl.place MemCtl.romOffset
  simp only
  rw [if_pos h, if_neg hr]
  split <;> rfl

/-- An address leads to one of the four kinds of cell. -/
theorem MemCtl.place_cases (m : MemCtl) (a : Word) :
    (a.toNat < 0xC000 ∧ ¬ (0x8000 ≤ a.toNat ∧ m.ramEnabled = true) ∧ m.place a = .rom (m.romOffset a)) ∨
    (0x8000 ≤ a.toNat ∧ a.toNat < 0xC000 ∧ m.ramEnabled = true ∧
      m.place a = .cram (m.ramBank * 0x4000 + (a.toNat - 0x8000))) ∨
    (inRam a = true ∧ m.place a = .ram (a.toNat % 0x2000)) ∨
    (0xFFFC ≤ a.toNat ∧ m.place a = .top (a.toNat - 0xFFFC)) := by
  by_cases h : a.toNat < 0xC000
  · by_cases hr : 0x8000 ≤ a.toNat ∧ m.ramEnabled = true
    · exact .inr (.inl ⟨hr.1, h, hr.2, m.place_cram a hr.1 h hr.2⟩)
    · exact .inl ⟨h, hr, m.place_rom a h hr⟩
  · by_cases ht : 0xFFFC ≤ a.toNat
    · exact .inr (.inr (.inr ⟨ht, m.place_top a ht⟩))
    · have hr : inRam a = true := by simp only [inRam, Bool.and_eq_true, decide_eq_true_eq]; omega
      exact .inr (.inr (.inl ⟨hr, m.place_ram a hr⟩))

/-! ### What a write does, by the kind of cell -/

theorem MemCtl.write_rom (m : MemCtl) (a : Word) (v : Byte) (off : Nat) (h : m.place a = .rom off) :
    m.write a v = match m.variant with
      | .standard => m
      | .alternateChecksum => m.writeAltSlot a v := by
  unfold MemCtl.write
  rw [h]; cases m.variant <;> rfl

theorem MemCtl.write_cram (m : MemCtl) (a : Word) (v : Byte) (i : Nat) (h : m.place a = .cram i) :
    m.write a v = { m with cram := Memory.write m.cram i v } := by
  unfold MemCtl.write
  rw [h]; cases m.variant <;> rfl

theorem MemCtl.write_ram (m : MemCtl) (a : Word) (v : Byte) (i : Nat) (h : m.place a = .ram i) :
    m.write a v = { m with ram := Memory.write m.ram i v } := by
  unfold MemCtl.write
  rw [h]; cases m.variant <;> rfl

theorem MemCtl.write_top (m : MemCtl) (a : Word) (v : Byte) (j : Nat) (h : m.place a = .top j) :
    m.write a v = m.setTopCell j v := by
  unfold MemCtl.write
  rw [h]; cases m.variant <;> rfl

/-- Reads of a cell depend on the memory controller and the parameters only. -/
theorem State.memRead_congr (s t : State) (a : Word) (hm : t.mc = s.mc) (hc : t.cfg = s.cfg) :
    t.memRead a = s.memRead a := by
  unfold State.memRead State.readPlace State.rom
  rw [hm, hc]

/-- The decoder reads only the variant, the image, the slot's page byte and, in slot 2, RAM-control. -/
theorem MemCtl.place_congr (m n : MemCtl) (x : Word) (hv : n.variant = m.variant) (hi : n.image = m.image)
    (hp : x.toNat < 0xC000 → n.pageByte (x.toNat / 0x4000) = m.pageByte (x.toNat / 0x4000))
    (h0 : x.toNat / 0x4000 = 2 → m.variant = .standard → n.top0 = m.top0) : n.place x = m.place x := by
  rcases m.place_cases x with ⟨hx, hr, hq⟩ | ⟨hx, hx2, hr, hq⟩ | ⟨hx, hq⟩ | ⟨hx, hq⟩
  · have hr2 : ¬ (0x8000 ≤ x.toNat ∧ n.ramEnabled = true) := by
      rintro ⟨h1, h2⟩
      apply hr
      refine ⟨h1, ?_⟩
      unfold MemCtl.ramEnabled at h2 ⊢
      rw [hv] at h2
      cases hvar : m.variant
      · rw [hvar] at h2; rw [h0 (by omega) hvar] at h2; exact h2
      · rw [hvar] at h2; exact h2
    rw [hq, n.place_rom x hx hr2]
    unfold MemCtl.romOffset MemCtl.pageSel MemCtl.pageMask
    rw [hv, hi, hp hx]
  · have hs : m.variant = .standard := by
      cases hvar : m.variant
      · rfl
      · simp [MemCtl.ramEnabled, hvar] at hr
    have ht := h0 (by omega) hs
    have hr2 : n.ramEnabled = true := by
      unfold MemCtl.ramEnabled at hr ⊢
      rw [hv, ht]; exact hr
    rw [hq, n.place_cram x hx hx2 hr2]
    unfold MemCtl.ramBank
    rw [ht]
  · rw [hq, n.place_ram x hx]
  · rw [hq, n.place_top x hx]

/-- A top cell's address is one of four. -/
theorem topAddress_cases (a : Word) (h : 0xFFFC ≤ a.toNat) :
    a = 0xFFFC#16 ∨ a = 0xFFFD#16 ∨ a = 0xFFFE#16 ∨ a = 0xFFFF#16 := by
  have h1 := a.isLt
  have h2 : a.toNat = 0xFFFC ∨ a.toNat = 0xFFFD ∨ a.toNat = 0xFFFE ∨ a.toNat = 0xFFFF := by omega
  rcases h2 with h | h | h | h
  · exact .inl (BitVec.eq_of_toNat_eq (by simpa using h))
  · exact .inr (.inl (BitVec.eq_of_toNat_eq (by simpa using h)))
  · exact .inr (.inr (.inl (BitVec.eq_of_toNat_eq (by simpa using h))))
  · exact .inr (.inr (.inr (BitVec.eq_of_toNat_eq (by simpa using h))))

theorem MemCtl.writeAltSlot_pageByte (m : MemCtl) (a : Word) (v : Byte) (k : Nat) (hk : k < 3)
    (hv : m.variant = .alternateChecksum) (h : remappedSlot .alternateChecksum a ≠ some k) :
    (m.writeAltSlot a v).pageByte k = m.pageByte k := by
  have h3 : k = 0 ∨ k = 1 ∨ k = 2 := by omega
  simp only [remappedSlot] at h
  simp only [MemCtl.writeAltSlot]
  split_ifs at h ⊢
  · rcases h3 with rfl | rfl | rfl <;> simp_all [MemCtl.pageByte]
  · rcases h3 with rfl | rfl | rfl <;> simp_all [MemCtl.pageByte]
  · rcases h3 with rfl | rfl | rfl <;> simp_all [MemCtl.pageByte]
  · rfl

theorem MemCtl.setTopCell_pageByte (m : MemCtl) (a : Word) (v : Byte) (k : Nat) (hk : k < 3)
    (ha : 0xFFFC ≤ a.toNat) (h : remappedSlot m.variant a ≠ some k) :
    (m.setTopCell (a.toNat - 0xFFFC) v).pageByte k = m.pageByte k := by
  have h3 : k = 0 ∨ k = 1 ∨ k = 2 := by omega
  cases hv : m.variant
  · rw [hv] at h
    rcases topAddress_cases a ha with rfl | rfl | rfl | rfl <;> rcases h3 with rfl | rfl | rfl <;>
      first | (exact absurd rfl h) | simp [MemCtl.setTopCell, MemCtl.pageByte, hv]
  · rcases topAddress_cases a ha with rfl | rfl | rfl | rfl <;> rcases h3 with rfl | rfl | rfl <;>
      simp [MemCtl.setTopCell, MemCtl.pageByte, hv]

theorem MemCtl.write_pageByte (m : MemCtl) (a : Word) (v : Byte) (k : Nat) (hk : k < 3)
    (h : remappedSlot m.variant a ≠ some k) : (m.write a v).pageByte k = m.pageByte k := by
  rcases m.place_cases a with ⟨_, _, hp⟩ | ⟨_, _, _, hp⟩ | ⟨_, hp⟩ | ⟨ha, hp⟩
  · rw [m.write_rom a v _ hp]
    cases hv : m.variant
    · rfl
    · exact m.writeAltSlot_pageByte a v k hk hv (hv ▸ h)
  · rw [m.write_cram a v _ hp]; rfl
  · rw [m.write_ram a v _ hp]; rfl
  · rw [m.write_top a v _ hp]; exact m.setTopCell_pageByte a v k hk ha h

theorem MemCtl.write_top0 (m : MemCtl) (a : Word) (v : Byte) (hs : m.variant = .standard)
    (h : a ≠ 0xFFFC#16) : (m.write a v).top0 = m.top0 := by
  rcases m.place_cases a with ⟨_, _, hp⟩ | ⟨_, _, _, hp⟩ | ⟨_, hp⟩ | ⟨ha, hp⟩
  · rw [m.write_rom a v _ hp, hs]
  · rw [m.write_cram a v _ hp]
  · rw [m.write_ram a v _ hp]
  · rw [m.write_top a v _ hp]
    rcases topAddress_cases a ha with rfl | rfl | rfl | rfl
    · exact absurd rfl h
    all_goals rfl

/-- A write exchanges no slot but the remapped one. -/
theorem MemCtl.write_place (m : MemCtl) (a x : Word) (v : Byte)
    (h : remappedSlot m.variant a ≠ some (x.toNat / 0x4000)) : (m.write a v).place x = m.place x := by
  apply MemCtl.place_congr _ _ _ (m.write_variant a v) (m.write_image a v)
  · intro hx
    exact m.write_pageByte a v _ (by omega) h
  · intro hx hs
    apply m.write_top0 a v hs
    rintro rfl
    rw [hs, hx] at h
    exact h rfl

/-- Two addresses that lead to one RAM cell, cartridge RAM cell or top cell share that cell. -/
theorem MemCtl.place_shared (m : MemCtl) (a x : Word) (h : m.place a = m.place x)
    (hn : ∀ off, m.place a ≠ .rom off) : sharesCell a x = true := by
  have key : a.toNat = x.toNat → sharesCell a x = true := fun e => by
    rw [BitVec.eq_of_toNat_eq e]; simp [sharesCell]
  rcases m.place_cases a with ⟨_, _, hp⟩ | ⟨_, _, _, hp⟩ | ⟨ha, hp⟩ | ⟨ha, hp⟩
  · exact absurd hp (hn _)
  all_goals
    rcases m.place_cases x with ⟨_, _, hq⟩ | ⟨_, _, _, hq⟩ | ⟨hx, hq⟩ | ⟨hx, hq⟩ <;> rw [hp, hq] at h <;>
      simp only [reduceCtorEq, Place.cram.injEq, Place.ram.injEq, Place.top.injEq] at h
  · exact key (by omega)
  · simp [sharesCell, ha, hx, h]
  · exact key (by omega)

/-- Top cells are four separate cells. -/
theorem MemCtl.topCell_setTopCell (m : MemCtl) (i j : Nat) (v : Byte) (hi : i < 4) (hj : j < 4) :
    (m.setTopCell j v).topCell i = if i = j then v else m.topCell i := by
  have h4 : ∀ k, k < 4 → k = 0 ∨ k = 1 ∨ k = 2 ∨ k = 3 := fun k hk => by omega
  rcases h4 i hi with rfl | rfl | rfl | rfl <;> rcases h4 j hj with rfl | rfl | rfl | rfl <;> rfl


/-- What a cell holds after a write to another cell. -/
theorem State.readPlace_memWrite_other (s : State) (a : Word) (v : Byte) (p : Place) (h : s.mc.place a ≠ p)
    (hj : ∀ j, p = .top j → j < 4) : (s.memWrite a v).readPlace p = s.readPlace p := by
  rcases p with off | i | i | j
  · show State.rom _ off = State.rom _ off
    unfold State.rom
    rw [State.memWrite_mc, MemCtl.write_image, State.memWrite_cfg]
  · show Memory.read (s.mc.write a v).cram i = Memory.read s.mc.cram i
    rcases s.mc.place_cases a with ⟨_, _, hp⟩ | ⟨_, _, _, hp⟩ | ⟨_, hp⟩ | ⟨ha, hp⟩
    · rw [MemCtl.write_rom _ _ _ _ hp]; cases s.mc.variant <;> simp
    · rw [MemCtl.write_cram _ _ _ _ hp]
      exact Memory.read_write_other _ _ _ _ (fun e => h (by rw [hp, e]))
    · rw [MemCtl.write_ram _ _ _ _ hp]
    · rw [MemCtl.write_top _ _ _ _ hp]; simp
  · show Memory.read (s.mc.write a v).ram i = Memory.read s.mc.ram i
    rcases s.mc.place_cases a with ⟨_, _, hp⟩ | ⟨_, _, _, hp⟩ | ⟨_, hp⟩ | ⟨ha, hp⟩
    · rw [MemCtl.write_rom _ _ _ _ hp]; cases s.mc.variant <;> simp
    · rw [MemCtl.write_cram _ _ _ _ hp]
    · rw [MemCtl.write_ram _ _ _ _ hp]
      exact Memory.read_write_other _ _ _ _ (fun e => h (by rw [hp, e]))
    · rw [MemCtl.write_top _ _ _ _ hp]; simp
  · show (s.mc.write a v).topCell j = s.mc.topCell j
    rcases s.mc.place_cases a with ⟨_, _, hp⟩ | ⟨_, _, _, hp⟩ | ⟨_, hp⟩ | ⟨ha, hp⟩
    · rw [MemCtl.write_rom _ _ _ _ hp]
      cases s.mc.variant
      · rfl
      · simp only [MemCtl.writeAltSlot]
        split_ifs <;> rfl
    · rw [MemCtl.write_cram _ _ _ _ hp]; rfl
    · rw [MemCtl.write_ram _ _ _ _ hp]; rfl
    · rw [MemCtl.write_top _ _ _ _ hp,
        MemCtl.topCell_setTopCell _ _ _ _ (hj j rfl) (by have := a.isLt; omega),
        if_neg (fun e => h (by rw [hp, e]))]

/-- A store at `a` leaves every address outside what it touches as it was. -/
theorem State.memRead_memWrite_outside (s : State) (a x : Word) (v : Byte) (h : s.outside a x) :
    (s.memWrite a v).memRead x = s.memRead x := by
  obtain ⟨hs, hr⟩ := h
  unfold State.memRead
  rw [State.memWrite_mc, MemCtl.write_place _ _ _ _ hr]
  by_cases hrom : ∃ off, s.mc.place x = .rom off
  · obtain ⟨off, ho⟩ := hrom
    rw [ho]
    show State.rom _ off = State.rom _ off
    unfold State.rom
    rw [State.memWrite_mc, MemCtl.write_image, State.memWrite_cfg]
  · apply State.readPlace_memWrite_other
    · intro e
      have := s.mc.place_shared a x e (fun off ho => hrom ⟨off, e ▸ ho⟩)
      rw [this] at hs; exact absurd hs (by simp)
    · intro j e
      rcases s.mc.place_cases x with ⟨_, _, hp⟩ | ⟨_, _, _, hp⟩ | ⟨_, hp⟩ | ⟨ha, hp⟩ <;> rw [hp] at e <;>
        simp only [reduceCtorEq, Place.top.injEq] at e
      have := x.isLt; omega

/-- A store where the decoder can store is read back. -/
theorem State.memRead_memWrite_same (s : State) (a : Word) (v : Byte) (h : s.storable a = true) :
    (s.memWrite a v).memRead a = v := by
  simp only [State.storable, Bool.or_eq_true, Bool.and_eq_true, decide_eq_true_eq] at h
  unfold State.memRead
  rw [State.memWrite_mc]
  rcases s.mc.place_cases a with ⟨h1, h2, hp⟩ | ⟨h1, h2, h3, hp⟩ | ⟨h1, hp⟩ | ⟨h1, hp⟩
  · exfalso; rcases h with h | h
    · omega
    · exact h2 h
  · have hpl : (s.mc.write a v).place a = s.mc.place a := by
      rw [MemCtl.write_cram _ _ _ _ hp]
      exact MemCtl.place_congr s.mc _ a rfl rfl (fun _ => rfl) (fun _ _ => rfl)
    rw [hpl, hp]
    show Memory.read (s.mc.write a v).cram _ = v
    rw [MemCtl.write_cram _ _ _ _ hp]; simp
  · rw [MemCtl.place_ram _ a h1]
    show Memory.read (s.mc.write a v).ram _ = v
    rw [MemCtl.write_ram _ _ _ _ hp]; simp
  · rw [MemCtl.place_top _ a h1]
    have hj : a.toNat - 0xFFFC < 4 := by have := a.isLt; omega
    generalize a.toNat - 0xFFFC = j at hj hp
    show (s.mc.write a v).topCell j = v
    rw [MemCtl.write_top _ _ _ _ hp, MemCtl.topCell_setTopCell _ _ _ _ hj hj, if_pos rfl]

/-! ### Stored: what the stores of an instruction do -/

/-- `Stored` speaks of the memory controller and the parameters only. -/
theorem Stored.congr (stores : List (Word × Byte)) (s t u : State) (h : Stored stores s t) (hm : u.mc = t.mc)
    (hc : u.cfg = t.cfg) : Stored stores s u :=
  ⟨hm.trans h.1, fun x hx => (State.memRead_congr t u x hm hc).trans (h.2.1 x hx),
    fun p hp hs => (State.memRead_congr t u _ hm hc).trans (h.2.2 p hp hs)⟩

/-- Memory is unchanged where the memory controller and the parameters are. -/
theorem keepsMemory_of (s t : State) (hm : t.mc = s.mc) (hc : t.cfg = s.cfg) : KeepsMemory s t :=
  ⟨hm, fun x _ => State.memRead_congr s t x hm hc, fun p hp => by cases hp⟩

/-- One store. -/
theorem State.memWrite_stored (s : State) (a : Word) (v : Byte) : Stored [(a, v)] s (s.memWrite a v) := by
  refine ⟨rfl, fun x hx => ?_, fun p hp hs => ?_⟩
  · exact s.memRead_memWrite_outside a x v (hx (a, v) (by simp))
  · rw [List.mem_singleton] at hp; subst hp
    exact s.memRead_memWrite_same a v hs

/-- Whether an address can store depends on the variant and RAM-control, which no store next to it
changes. -/
theorem State.storable_memWrite (s : State) (a b : Word) (v : Byte) (hb : s.storable b = true)
    (h : b.toNat < 0xC000 → a ≠ 0xFFFC#16) : (s.memWrite a v).storable b = true := by
  simp only [State.storable, Bool.or_eq_true, Bool.and_eq_true, decide_eq_true_eq] at hb ⊢
  by_cases hc : 0xC000 ≤ b.toNat
  · exact .inl hc
  · have hb2 := hb.resolve_left hc
    refine .inr ⟨hb2.1, ?_⟩
    have hr : s.mc.ramEnabled = true := hb2.2
    unfold MemCtl.ramEnabled at hr ⊢
    rw [State.memWrite_mc, MemCtl.write_variant]
    cases hv : s.mc.variant
    · rw [hv] at hr
      rw [MemCtl.write_top0 _ _ _ hv (h (by omega))]; exact hr
    · rw [hv] at hr; exact hr

/-- Two stores at two addresses of which the second leaves the first alone. -/
theorem State.memWrite_memWrite_stored (s : State) (a b : Word) (v w : Byte)
    (hab : s.storable a = true → s.outside b a) (hb : b.toNat < 0xC000 → a ≠ 0xFFFC#16) :
    Stored [(a, v), (b, w)] s ((s.memWrite a v).memWrite b w) := by
  have hv : ∀ x, (s.memWrite a v).outside b x ↔ s.outside b x := by
    intro x; unfold State.outside; rw [State.memWrite_mc, MemCtl.write_variant]
  refine ⟨rfl, fun x hx => ?_, fun p hp hs => ?_⟩
  · rw [State.memRead_memWrite_outside _ _ _ _ ((hv x).mpr (hx (b, w) (by simp)))]
    exact s.memRead_memWrite_outside a x v (hx (a, v) (by simp))
  · simp only [List.mem_cons, List.not_mem_nil, or_false] at hp
    rcases hp with rfl | rfl
    · rw [State.memRead_memWrite_outside _ _ _ _ ((hv a).mpr (hab hs))]
      exact s.memRead_memWrite_same a v hs
    · exact State.memRead_memWrite_same _ _ _ (s.storable_memWrite a b v hs hb)

/-- Neighbouring addresses never share a cell. -/
theorem sharesCell_succ (a : Word) : sharesCell (a + 1#16) a = false ∧ sharesCell a (a + 1#16) = false := by
  have h1 := a.isLt
  have h2 : (a + 1#16).toNat = (a.toNat + 1) % 0x10000 := by simp
  have h3 : a + 1#16 ≠ a := by intro e; rw [e] at h2; omega
  have h4 : ¬ (a.toNat % 0x2000 = (a + 1#16).toNat % 0x2000) := by rw [h2]; omega
  constructor
  · simp only [sharesCell, beq_eq_false_iff_ne.mpr h3, Bool.false_or, decide_eq_false (Ne.symm h4), Bool.and_false]
  · simp only [sharesCell, beq_eq_false_iff_ne.mpr h3.symm, Bool.false_or, decide_eq_false h4, Bool.and_false]

theorem sub_two_add_one (a : Word) : a - 2#16 + 1#16 = a - 1#16 := by
  bv_omega

/-- A store at an address that can store never sees its own slot exchanged by a store next to it. -/
theorem State.outside_next (s : State) (a b : Word) (ha : s.storable a = true)
    (hab : b = a + 1#16 ∨ a = b + 1#16) : s.outside b a := by
  refine ⟨?_, ?_⟩
  · rcases hab with rfl | rfl
    · exact (sharesCell_succ a).1
    · exact (sharesCell_succ b).2
  · have hs : 0xC000 ≤ a.toNat ∨ (0x8000 ≤ a.toNat ∧ s.mc.ramEnabled = true) := by
      simpa only [State.storable, Bool.or_eq_true, Bool.and_eq_true, decide_eq_true_eq] using ha
    have hn : a.toNat = (b.toNat + 1) % 0x10000 ∨ b.toNat = (a.toNat + 1) % 0x10000 := by
      rcases hab with rfl | rfl
      · right; simp
      · left; simp
    have hal := a.isLt
    have hbl := b.isLt
    by_cases hc : 0xC000 ≤ a.toNat
    · unfold remappedSlot
      intro h
      split at h <;> split_ifs at h <;> simp only [Option.some.injEq] at h <;> omega
    · have hs2 := hs.resolve_left hc
      have hr : s.mc.ramEnabled = true := hs2.2
      have hv : s.mc.variant = .standard := by
        cases hvar : s.mc.variant
        · rfl
        · simp [MemCtl.ramEnabled, hvar] at hr
      rw [hv]
      unfold remappedSlot
      simp only
      have hb : b.toNat < 0xFFFC := by omega
      have hne : ∀ k : Nat, 0xFFFC ≤ k → k < 0x10000 → b ≠ BitVec.ofNat 16 k := by
        intro k hk hk2 e
        rw [e] at hb
        simp only [BitVec.toNat_ofNat] at hb
        omega
      rw [if_neg (hne 0xFFFC (by decide) (by decide)), if_neg (hne 0xFFFD (by decide) (by decide)),
        if_neg (hne 0xFFFE (by decide) (by decide)), if_neg (hne 0xFFFF (by decide) (by decide))]
      simp

theorem State.pair_stored (s : State) (a b : Word) (v w : Byte) (hab : b = a + 1#16 ∨ a = b + 1#16) :
    Stored [(a, v), (b, w)] s ((s.memWrite a v).memWrite b w) := by
  apply State.memWrite_memWrite_stored
  · exact fun ha => s.outside_next a b ha hab
  · rintro hb rfl
    rcases hab with rfl | h
    · revert hb; decide
    · have : b = 0xFFFB#16 := by bv_omega
      subst this; revert hb; decide

/-- A 16-bit store (00_scope.md R14). -/
theorem State.memWrite16_stored (s : State) (a w : Word) : Stored (wordAt a w) s (s.memWrite16 a w) :=
  s.pair_stored a (a + 1#16) (lo8 w) (hi8 w) (.inl rfl)

/-- The stores of push16 (41_load16_exchange_block.md R139). -/
theorem State.push16_stored (s : State) (w : Word) : Stored (pushedFrom s.sp w) s (s.push16 w) := by
  have h := s.pair_stored (s.sp - 1#16) (s.sp - 2#16) (hi8 w) (lo8 w) (.inr (sub_two_add_one s.sp).symm)
  refine Stored.congr _ s _ (s.push16 w) h ?_ rfl
  show (s.mc.write _ _).write (s.sp - 1#16 - 1#16) _ = (s.mc.write _ _).write (s.sp - 2#16) _
  rw [show s.sp - 1#16 - 1#16 = s.sp - 2#16 by bv_omega]

/-- SP after push16. -/
theorem State.push16_sp (s : State) (w : Word) : (s.push16 w).sp = s.sp - 2#16 := by
  show s.sp - 1#16 - 1#16 = s.sp - 2#16
  bv_omega

/-! ### The canonical form -/

/-- A memory controller with the same stores is sound alike. -/
theorem MemCtl.sound_congr (m n : MemCtl) (hr : n.ram = m.ram) (hc : n.cram = m.cram) (h : m.sound) : n.sound := by
  unfold MemCtl.sound at h ⊢
  rw [hr, hc]; exact h

/-- Every write keeps both byte stores in canonical form and within their sizes. -/
theorem MemCtl.write_sound (m : MemCtl) (a : Word) (v : Byte) (h : m.sound) : (m.write a v).sound := by
  obtain ⟨h1, h2, h3, h4⟩ := h
  rcases m.place_cases a with ⟨_, _, hp⟩ | ⟨_, _, _, hp⟩ | ⟨_, hp⟩ | ⟨ha, hp⟩
  · rw [m.write_rom a v _ hp]
    cases m.variant
    · exact ⟨h1, h2, h3, h4⟩
    · exact MemCtl.sound_congr m _ (by simp) (by simp) ⟨h1, h2, h3, h4⟩
  · rw [m.write_cram a v _ hp]
    have := m.ramBank_lt
    exact ⟨h1, h2, Memory.wf_write _ _ _ h3, Memory.within_write _ _ _ _ (by omega) h4⟩
  · rw [m.write_ram a v _ hp]
    exact ⟨Memory.wf_write _ _ _ h1, Memory.within_write _ _ _ _ (Nat.mod_lt _ (by decide)) h2, h3, h4⟩
  · rw [m.write_top a v _ hp]
    exact MemCtl.sound_congr m _ (by simp) (by simp) ⟨h1, h2, h3, h4⟩

end Sys2Proof.Machine
end

