-- ==== Sys2Proof/Laws/Effects.lean ====
section
/-! SUPPORT. One lemma per shared operation: everything it does, in the words of Safety.lean. Proofs about
instructions cite these and do not unfold the operations. -/

namespace Sys2Proof.Machine

open Sys2Proof

/-! ### Putting a frame together from the fields -/

/-- `KeepsRest`, from the fields. -/
theorem keepsRest_of (s t : State) (h1 : t.alt = s.alt) (h2 : t.regI = s.regI) (h3 : t.regR = s.regR)
    (h4 : t.iff1 = s.iff1) (h5 : t.iff2 = s.iff2) (h6 : t.im = s.im) (h7 : t.halted = s.halted)
    (h8 : t.eiDelay = s.eiDelay) (h9 : t.ioInput = s.ioInput) (h10 : t.ioEvents = s.ioEvents)
    (h11 : t.fault = s.fault) (h12 : t.nmiPending = s.nmiPending) (h13 : t.intLine = s.intLine)
    (h14 : t.intData = s.intData) (h15 : t.cfg = s.cfg)
    (h16 : t.mc.image = s.mc.image ∧ t.mc.variant = s.mc.variant ∧ t.mc.cartLoaded = s.mc.cartLoaded) :
    KeepsRest s t :=
  ⟨h1, ⟨h2, h3⟩, ⟨h4, h5, h6, h7, h8⟩, ⟨h9, h10⟩, ⟨h11, h12, h13, h14, h15, h16⟩⟩

/-- `KeepsRest` where the memory controller stays. -/
theorem keepsRest_of_mc (s t : State) (h1 : t.alt = s.alt) (h2 : t.regI = s.regI) (h3 : t.regR = s.regR)
    (h4 : t.iff1 = s.iff1) (h5 : t.iff2 = s.iff2) (h6 : t.im = s.im) (h7 : t.halted = s.halted)
    (h8 : t.eiDelay = s.eiDelay) (h9 : t.ioInput = s.ioInput) (h10 : t.ioEvents = s.ioEvents)
    (h11 : t.fault = s.fault) (h12 : t.nmiPending = s.nmiPending) (h13 : t.intLine = s.intLine)
    (h14 : t.intData = s.intData) (h15 : t.cfg = s.cfg) (h16 : t.mc = s.mc) : KeepsRest s t :=
  keepsRest_of s t h1 h2 h3 h4 h5 h6 h7 h8 h9 h10 h11 h12 h13 h14 h15 ⟨by rw [h16], by rw [h16], by rw [h16]⟩

/-- `KeepsRest` composes. -/
theorem KeepsRest.trans {s t u : State} (h : KeepsRest s t) (k : KeepsRest t u) : KeepsRest s u := by
  obtain ⟨h1, ⟨h2, h3⟩, ⟨h4, h5, h6, h7, h8⟩, ⟨h9, h10⟩, h11, h12, h13, h14, h15, h16, h17, h18⟩ := h
  obtain ⟨k1, ⟨k2, k3⟩, ⟨k4, k5, k6, k7, k8⟩, ⟨k9, k10⟩, k11, k12, k13, k14, k15, k16, k17, k18⟩ := k
  exact ⟨k1.trans h1, ⟨k2.trans h2, k3.trans h3⟩, ⟨k4.trans h4, k5.trans h5, k6.trans h6, k7.trans h7, k8.trans h8⟩,
    ⟨k9.trans h9, k10.trans h10⟩, ⟨k11.trans h11, k12.trans h12, k13.trans h13, k14.trans h14, k15.trans h15,
      k16.trans h16, k17.trans h17, k18.trans h18⟩⟩

/-- What a write to the memory controller keeps besides memory. -/
theorem State.memWrite_keepsRest (s : State) (a : Word) (v : Byte) : KeepsRest s (s.memWrite a v) :=
  keepsRest_of s _ rfl rfl rfl rfl rfl rfl rfl rfl rfl rfl rfl rfl rfl rfl rfl (s.mc.write_keeps a v)

/-- The end of an instruction keeps the rest. -/
theorem State.goto_keepsRest (s : State) (w : Word) (n : Nat) : KeepsRest s (s.goto w n) :=
  keepsRest_of_mc s _ rfl rfl rfl rfl rfl rfl rfl rfl rfl rfl rfl rfl rfl rfl rfl rfl

theorem State.advance_keepsRest (s : State) (w : Word) (n : Nat) : KeepsRest s (s.advance w n) :=
  keepsRest_of_mc s _ rfl rfl rfl rfl rfl rfl rfl rfl rfl rfl rfl rfl rfl rfl rfl rfl

theorem State.writeFlags_keepsRest (s : State) (f : FlagReg) : KeepsRest s (s.writeFlags f) :=
  keepsRest_of_mc s _ rfl rfl rfl rfl rfl rfl rfl rfl rfl rfl rfl rfl rfl rfl rfl rfl

theorem State.setReg8_keepsRest (s : State) (r : Reg8) (v : Byte) : KeepsRest s (s.setReg8 r v) := by
  cases r <;> exact keepsRest_of_mc s _ rfl rfl rfl rfl rfl rfl rfl rfl rfl rfl rfl rfl rfl rfl rfl rfl

theorem State.setPair_keepsRest (s : State) (dd : Pair) (w : Word) : KeepsRest s (s.setPair dd w) := by
  cases dd <;> exact keepsRest_of_mc s _ rfl rfl rfl rfl rfl rfl rfl rfl rfl rfl rfl rfl rfl rfl rfl rfl

theorem State.setStackPair_keepsRest (s : State) (qq : StackPair) (w : Word) : KeepsRest s (s.setStackPair qq w) := by
  cases qq <;> exact keepsRest_of_mc s _ rfl rfl rfl rfl rfl rfl rfl rfl rfl rfl rfl rfl rfl rfl rfl rfl

theorem State.setIdx_keepsRest (s : State) (xy : IdxReg) (w : Word) : KeepsRest s (s.setIdx xy w) := by
  cases xy <;> exact keepsRest_of_mc s _ rfl rfl rfl rfl rfl rfl rfl rfl rfl rfl rfl rfl rfl rfl rfl rfl

theorem State.dropTop_keepsRest (s : State) : KeepsRest s s.dropTop :=
  keepsRest_of_mc s _ rfl rfl rfl rfl rfl rfl rfl rfl rfl rfl rfl rfl rfl rfl rfl rfl

/-- push16 keeps the rest. -/
theorem State.push16_keepsRest (s : State) (w : Word) : KeepsRest s (s.push16 w) :=
  keepsRest_of s _ rfl rfl rfl rfl rfl rfl rfl rfl rfl rfl rfl rfl rfl rfl rfl
    ⟨by simp, by simp, by simp⟩

theorem KeepsReg8.rfl_of (s t : State) (h : t.main = s.main) : KeepsReg8 [] s t := by
  intro r _
  cases r <;> simp only [State.reg8, h]

/-! ### Loads and stores -/

/-- Loading one 8-bit register. -/
theorem State.setReg8_loads (s : State) (r : Reg8) (v : Byte) (len : Word) (n : Nat) :
    LoadsReg s r v len n ((s.setReg8 r v).advance len n) := by
  refine ⟨by simp, fun q hq => ?_, ⟨by simp, by simp⟩, ⟨by simp [KeepsSp], ⟨by simp, by simp⟩,
    (s.setReg8_keepsRest r v).trans (State.advance_keepsRest _ _ _)⟩, keepsMemory_of _ _ (by simp) (by simp),
    by simp [EndsAt]⟩
  rw [State.advance_reg8, State.setReg8_reg8_other s r q v (by simpa using hq)]

/-- Loading a pair or SP. -/
theorem State.setPair_loads (s : State) (dd : Pair) (w len : Word) (n : Nat) :
    LoadsPair s dd w len n ((s.setPair dd w).advance len n) :=
  ⟨State.setPair_pair_same s dd w, fun ee h => State.setPair_pair_other s dd ee w h, by simp, ⟨by simp, by simp⟩,
    ⟨by simp, by simp⟩, (s.setPair_keepsRest dd w).trans (State.advance_keepsRest _ _ _),
    keepsMemory_of _ _ (by simp) (by simp), by simp [EndsAt]⟩

/-- Loading an index register. -/
theorem State.setIdx_loads (s : State) (xy : IdxReg) (w len : Word) (n : Nat) :
    LoadsIdx s xy w len n ((s.setIdx xy w).advance len n) :=
  ⟨by simp, fun z h => State.setIdx_idx_other s xy z w h, KeepsReg8.rfl_of _ _ (by simp), ⟨by simp, by simp⟩,
    by simp [KeepsSp], (s.setIdx_keepsRest xy w).trans (State.advance_keepsRest _ _ _),
    keepsMemory_of _ _ (by simp) (by simp), by simp [EndsAt]⟩

/-- Storing one byte. -/
theorem State.memWrite_onlyStores (s : State) (a : Word) (v : Byte) (len : Word) (n : Nat) :
    OnlyStores s [(a, v)] len n ((s.memWrite a v).advance len n) :=
  ⟨Stored.congr _ _ _ _ (s.memWrite_stored a v) rfl rfl, KeepsReg8.rfl_of _ _ rfl, ⟨rfl, rfl⟩,
    ⟨rfl, ⟨rfl, rfl⟩, (s.memWrite_keepsRest a v).trans (State.advance_keepsRest _ _ _)⟩, ⟨rfl, rfl⟩⟩

/-- Storing a word. -/
theorem State.memWrite16_onlyStores (s : State) (a w : Word) (len : Word) (n : Nat) :
    OnlyStores s (wordAt a w) len n ((s.memWrite16 a w).advance len n) :=
  ⟨Stored.congr _ _ _ _ (s.memWrite16_stored a w) rfl rfl, KeepsReg8.rfl_of _ _ rfl, ⟨rfl, rfl⟩,
    ⟨rfl, ⟨rfl, rfl⟩, ((s.memWrite_keepsRest a _).trans (State.memWrite_keepsRest _ _ _)).trans
      (State.advance_keepsRest _ _ _)⟩, ⟨rfl, rfl⟩⟩

/-- Pushing a word. -/
theorem State.push16_pushes (s : State) (w pc : Word) (n : Nat) : PushesWord s w pc n ((s.push16 w).goto pc n) :=
  ⟨s.push16_sp w, Stored.congr _ _ _ _ (s.push16_stored w) rfl rfl, KeepsReg8.rfl_of _ _ rfl, ⟨rfl, rfl⟩,
    ⟨rfl, rfl⟩, (s.push16_keepsRest w).trans (State.goto_keepsRest _ _ _), ⟨rfl, rfl⟩⟩

/-- Going elsewhere. -/
theorem State.goto_onlyJumps (s : State) (pc : Word) (n : Nat) : OnlyJumps s pc n (s.goto pc n) :=
  ⟨KeepsReg8.rfl_of _ _ rfl, ⟨rfl, rfl⟩, ⟨rfl, ⟨rfl, rfl⟩, s.goto_keepsRest pc n⟩, keepsMemory_of _ _ rfl rfl,
    ⟨rfl, rfl⟩⟩

/-! ### Operations that write F -/

/-- Writing A and F. -/
theorem State.setA_writesA (s : State) (v : Byte) (f : FlagReg) (len : Word) (n : Nat) :
    WritesA s v len n (((s.setA v).writeFlags f).advance len n) :=
  ⟨rfl, fun q hq => by cases q <;> first | rfl | exact absurd (by simp) hq,
    ⟨rfl, ⟨rfl, rfl⟩, keepsRest_of_mc _ _ rfl rfl rfl rfl rfl rfl rfl rfl rfl rfl rfl rfl rfl rfl rfl rfl⟩,
    keepsMemory_of _ _ rfl rfl, ⟨rfl, rfl⟩⟩

/-- Writing F alone. -/
theorem State.writeFlags_writesA (s : State) (f : FlagReg) (len : Word) (n : Nat) :
    WritesA s s.main.a len n ((s.writeFlags f).advance len n) :=
  ⟨rfl, fun q _ => by cases q <;> rfl,
    ⟨rfl, ⟨rfl, rfl⟩, keepsRest_of_mc _ _ rfl rfl rfl rfl rfl rfl rfl rfl rfl rfl rfl rfl rfl rfl rfl rfl⟩,
    keepsMemory_of _ _ rfl rfl, ⟨rfl, rfl⟩⟩

/-- Writing a register and F. -/
theorem State.setReg8_writesReg (s : State) (r : Reg8) (v : Byte) (f : FlagReg) (len : Word) (n : Nat) :
    WritesReg s r v len n (((s.setReg8 r v).writeFlags f).advance len n) := by
  refine ⟨by simp, fun q hq => ?_, ⟨by simp [KeepsSp], ⟨by simp, by simp⟩,
    ((s.setReg8_keepsRest r v).trans (State.writeFlags_keepsRest _ _)).trans (State.advance_keepsRest _ _ _)⟩,
    keepsMemory_of _ _ (by simp) (by simp), by simp [EndsAt]⟩
  rw [State.advance_reg8, State.writeFlags_reg8, State.setReg8_reg8_other s r q v (by simpa using hq)]

/-- Storing a byte and writing F. -/
theorem State.memWrite_writesByte (s : State) (a : Word) (v : Byte) (f : FlagReg) (len : Word) (n : Nat) :
    WritesByte s a v len n (((s.memWrite a v).writeFlags f).advance len n) :=
  ⟨Stored.congr _ _ _ _ (s.memWrite_stored a v) rfl rfl, fun q _ => by cases q <;> rfl,
    ⟨rfl, ⟨rfl, rfl⟩, ((s.memWrite_keepsRest a v).trans (State.writeFlags_keepsRest _ _)).trans
      (State.advance_keepsRest _ _ _)⟩, ⟨rfl, rfl⟩⟩

/-- The six flags with a meaning after F was written last but for the end of the instruction. -/
theorem State.writeFlags_advance_flags (s : State) (f : FlagReg) (len : Word) (n : Nat) :
    FlagsAre ((s.writeFlags f).advance len n) f.s f.z f.h f.pv f.n f.c := ⟨rfl, rfl, rfl, rfl, rfl, rfl⟩

end Sys2Proof.Machine
end

