-- ==== Sys2Proof/Laws/PerInstr.lean ====
section
/-! SUPPORT. Statements made once per instruction: every encoding is 1 to 4 bytes long
(30_encoding.md R76), and its first byte tells the table it stands in (R86). -/

namespace Sys2Proof.Laws.EncodedLength

open Sys2Proof

/-- The encoding has 1 to 4 bytes; one with 4 bytes begins with a byte that leads to another table. -/
def Statement (i : Instr) : Prop :=
  1 ≤ i.length ∧ i.length ≤ 4 ∧ (i.length = 4 → isTableByte ((encode i).getD 0 0#8) = true)

theorem xy_table (xy : IdxReg) (rest : List Byte) : isTableByte ((xy.byte :: rest).getD 0 0#8) = true := by
  cases xy <;> rfl

theorem ldRR (r : Reg8) (s : Reg8) : Statement (.ldRR r s) :=
  ⟨Nat.le_of_ble_eq_true rfl, Nat.le_of_ble_eq_true rfl, fun h => absurd h (Nat.ne_of_beq_eq_false rfl)⟩

theorem ldRN (r : Reg8) (n : Byte) : Statement (.ldRN r n) :=
  ⟨Nat.le_of_ble_eq_true rfl, Nat.le_of_ble_eq_true rfl, fun h => absurd h (Nat.ne_of_beq_eq_false rfl)⟩

theorem ldRIndHl (r : Reg8) : Statement (.ldRIndHl r) :=
  ⟨Nat.le_of_ble_eq_true rfl, Nat.le_of_ble_eq_true rfl, fun h => absurd h (Nat.ne_of_beq_eq_false rfl)⟩

theorem ldIndHlR (r : Reg8) : Statement (.ldIndHlR r) :=
  ⟨Nat.le_of_ble_eq_true rfl, Nat.le_of_ble_eq_true rfl, fun h => absurd h (Nat.ne_of_beq_eq_false rfl)⟩

theorem ldIndHlN (n : Byte) : Statement (.ldIndHlN n) :=
  ⟨Nat.le_of_ble_eq_true rfl, Nat.le_of_ble_eq_true rfl, fun h => absurd h (Nat.ne_of_beq_eq_false rfl)⟩

theorem ldAIndBc : Statement .ldAIndBc :=
  ⟨Nat.le_of_ble_eq_true rfl, Nat.le_of_ble_eq_true rfl, fun h => absurd h (Nat.ne_of_beq_eq_false rfl)⟩

theorem ldAIndDe : Statement .ldAIndDe :=
  ⟨Nat.le_of_ble_eq_true rfl, Nat.le_of_ble_eq_true rfl, fun h => absurd h (Nat.ne_of_beq_eq_false rfl)⟩

theorem ldAIndNn (nn : Word) : Statement (.ldAIndNn nn) :=
  ⟨Nat.le_of_ble_eq_true rfl, Nat.le_of_ble_eq_true rfl, fun h => absurd h (Nat.ne_of_beq_eq_false rfl)⟩

theorem ldIndBcA : Statement .ldIndBcA :=
  ⟨Nat.le_of_ble_eq_true rfl, Nat.le_of_ble_eq_true rfl, fun h => absurd h (Nat.ne_of_beq_eq_false rfl)⟩

theorem ldIndDeA : Statement .ldIndDeA :=
  ⟨Nat.le_of_ble_eq_true rfl, Nat.le_of_ble_eq_true rfl, fun h => absurd h (Nat.ne_of_beq_eq_false rfl)⟩

theorem ldIndNnA (nn : Word) : Statement (.ldIndNnA nn) :=
  ⟨Nat.le_of_ble_eq_true rfl, Nat.le_of_ble_eq_true rfl, fun h => absurd h (Nat.ne_of_beq_eq_false rfl)⟩

theorem ldRIdx (r : Reg8) (xy : IdxReg) (d : Byte) : Statement (.ldRIdx r xy d) :=
  ⟨Nat.le_of_ble_eq_true rfl, Nat.le_of_ble_eq_true rfl, fun h => absurd h (Nat.ne_of_beq_eq_false rfl)⟩

theorem ldIdxR (xy : IdxReg) (d : Byte) (r : Reg8) : Statement (.ldIdxR xy d r) :=
  ⟨Nat.le_of_ble_eq_true rfl, Nat.le_of_ble_eq_true rfl, fun h => absurd h (Nat.ne_of_beq_eq_false rfl)⟩

theorem ldIdxN (xy : IdxReg) (d : Byte) (n : Byte) : Statement (.ldIdxN xy d n) :=
  ⟨Nat.le_of_ble_eq_true rfl, Nat.le_of_ble_eq_true rfl, fun _ => xy_table xy _⟩

theorem ldAI : Statement .ldAI :=
  ⟨Nat.le_of_ble_eq_true rfl, Nat.le_of_ble_eq_true rfl, fun h => absurd h (Nat.ne_of_beq_eq_false rfl)⟩

theorem ldAR : Statement .ldAR :=
  ⟨Nat.le_of_ble_eq_true rfl, Nat.le_of_ble_eq_true rfl, fun h => absurd h (Nat.ne_of_beq_eq_false rfl)⟩

theorem ldIA : Statement .ldIA :=
  ⟨Nat.le_of_ble_eq_true rfl, Nat.le_of_ble_eq_true rfl, fun h => absurd h (Nat.ne_of_beq_eq_false rfl)⟩

theorem ldRA : Statement .ldRA :=
  ⟨Nat.le_of_ble_eq_true rfl, Nat.le_of_ble_eq_true rfl, fun h => absurd h (Nat.ne_of_beq_eq_false rfl)⟩

theorem ldDdNn (dd : Pair) (nn : Word) : Statement (.ldDdNn dd nn) :=
  ⟨Nat.le_of_ble_eq_true rfl, Nat.le_of_ble_eq_true rfl, fun h => absurd h (Nat.ne_of_beq_eq_false rfl)⟩

theorem ldXyNn (xy : IdxReg) (nn : Word) : Statement (.ldXyNn xy nn) :=
  ⟨Nat.le_of_ble_eq_true rfl, Nat.le_of_ble_eq_true rfl, fun _ => xy_table xy _⟩

theorem ldHlIndNn (nn : Word) : Statement (.ldHlIndNn nn) :=
  ⟨Nat.le_of_ble_eq_true rfl, Nat.le_of_ble_eq_true rfl, fun h => absurd h (Nat.ne_of_beq_eq_false rfl)⟩

theorem ldDdIndNn (dd : Pair) (nn : Word) : Statement (.ldDdIndNn dd nn) :=
  ⟨Nat.le_of_ble_eq_true rfl, Nat.le_of_ble_eq_true rfl, fun _ => rfl⟩

theorem ldXyIndNn (xy : IdxReg) (nn : Word) : Statement (.ldXyIndNn xy nn) :=
  ⟨Nat.le_of_ble_eq_true rfl, Nat.le_of_ble_eq_true rfl, fun _ => xy_table xy _⟩

theorem ldIndNnHl (nn : Word) : Statement (.ldIndNnHl nn) :=
  ⟨Nat.le_of_ble_eq_true rfl, Nat.le_of_ble_eq_true rfl, fun h => absurd h (Nat.ne_of_beq_eq_false rfl)⟩

theorem ldIndNnDd (nn : Word) (dd : Pair) : Statement (.ldIndNnDd nn dd) :=
  ⟨Nat.le_of_ble_eq_true rfl, Nat.le_of_ble_eq_true rfl, fun _ => rfl⟩

theorem ldIndNnXy (nn : Word) (xy : IdxReg) : Statement (.ldIndNnXy nn xy) :=
  ⟨Nat.le_of_ble_eq_true rfl, Nat.le_of_ble_eq_true rfl, fun _ => xy_table xy _⟩

theorem ldSpHl : Statement .ldSpHl :=
  ⟨Nat.le_of_ble_eq_true rfl, Nat.le_of_ble_eq_true rfl, fun h => absurd h (Nat.ne_of_beq_eq_false rfl)⟩

theorem ldSpXy (xy : IdxReg) : Statement (.ldSpXy xy) :=
  ⟨Nat.le_of_ble_eq_true rfl, Nat.le_of_ble_eq_true rfl, fun h => absurd h (Nat.ne_of_beq_eq_false rfl)⟩

theorem pushQq (qq : StackPair) : Statement (.pushQq qq) :=
  ⟨Nat.le_of_ble_eq_true rfl, Nat.le_of_ble_eq_true rfl, fun h => absurd h (Nat.ne_of_beq_eq_false rfl)⟩

theorem pushXy (xy : IdxReg) : Statement (.pushXy xy) :=
  ⟨Nat.le_of_ble_eq_true rfl, Nat.le_of_ble_eq_true rfl, fun h => absurd h (Nat.ne_of_beq_eq_false rfl)⟩

theorem popQq (qq : StackPair) : Statement (.popQq qq) :=
  ⟨Nat.le_of_ble_eq_true rfl, Nat.le_of_ble_eq_true rfl, fun h => absurd h (Nat.ne_of_beq_eq_false rfl)⟩

theorem popXy (xy : IdxReg) : Statement (.popXy xy) :=
  ⟨Nat.le_of_ble_eq_true rfl, Nat.le_of_ble_eq_true rfl, fun h => absurd h (Nat.ne_of_beq_eq_false rfl)⟩

theorem exDeHl : Statement .exDeHl :=
  ⟨Nat.le_of_ble_eq_true rfl, Nat.le_of_ble_eq_true rfl, fun h => absurd h (Nat.ne_of_beq_eq_false rfl)⟩

theorem exAfAf : Statement .exAfAf :=
  ⟨Nat.le_of_ble_eq_true rfl, Nat.le_of_ble_eq_true rfl, fun h => absurd h (Nat.ne_of_beq_eq_false rfl)⟩

theorem exx : Statement .exx :=
  ⟨Nat.le_of_ble_eq_true rfl, Nat.le_of_ble_eq_true rfl, fun h => absurd h (Nat.ne_of_beq_eq_false rfl)⟩

theorem exIndSpHl : Statement .exIndSpHl :=
  ⟨Nat.le_of_ble_eq_true rfl, Nat.le_of_ble_eq_true rfl, fun h => absurd h (Nat.ne_of_beq_eq_false rfl)⟩

theorem exIndSpXy (xy : IdxReg) : Statement (.exIndSpXy xy) :=
  ⟨Nat.le_of_ble_eq_true rfl, Nat.le_of_ble_eq_true rfl, fun h => absurd h (Nat.ne_of_beq_eq_false rfl)⟩

theorem ldi : Statement .ldi :=
  ⟨Nat.le_of_ble_eq_true rfl, Nat.le_of_ble_eq_true rfl, fun h => absurd h (Nat.ne_of_beq_eq_false rfl)⟩

theorem ldir : Statement .ldir :=
  ⟨Nat.le_of_ble_eq_true rfl, Nat.le_of_ble_eq_true rfl, fun h => absurd h (Nat.ne_of_beq_eq_false rfl)⟩

theorem ldd : Statement .ldd :=
  ⟨Nat.le_of_ble_eq_true rfl, Nat.le_of_ble_eq_true rfl, fun h => absurd h (Nat.ne_of_beq_eq_false rfl)⟩

theorem lddr : Statement .lddr :=
  ⟨Nat.le_of_ble_eq_true rfl, Nat.le_of_ble_eq_true rfl, fun h => absurd h (Nat.ne_of_beq_eq_false rfl)⟩

theorem cpi : Statement .cpi :=
  ⟨Nat.le_of_ble_eq_true rfl, Nat.le_of_ble_eq_true rfl, fun h => absurd h (Nat.ne_of_beq_eq_false rfl)⟩

theorem cpir : Statement .cpir :=
  ⟨Nat.le_of_ble_eq_true rfl, Nat.le_of_ble_eq_true rfl, fun h => absurd h (Nat.ne_of_beq_eq_false rfl)⟩

theorem cpd : Statement .cpd :=
  ⟨Nat.le_of_ble_eq_true rfl, Nat.le_of_ble_eq_true rfl, fun h => absurd h (Nat.ne_of_beq_eq_false rfl)⟩

theorem cpdr : Statement .cpdr :=
  ⟨Nat.le_of_ble_eq_true rfl, Nat.le_of_ble_eq_true rfl, fun h => absurd h (Nat.ne_of_beq_eq_false rfl)⟩

theorem addAR (r : Reg8) : Statement (.addAR r) :=
  ⟨Nat.le_of_ble_eq_true rfl, Nat.le_of_ble_eq_true rfl, fun h => absurd h (Nat.ne_of_beq_eq_false rfl)⟩

theorem addAN (n : Byte) : Statement (.addAN n) :=
  ⟨Nat.le_of_ble_eq_true rfl, Nat.le_of_ble_eq_true rfl, fun h => absurd h (Nat.ne_of_beq_eq_false rfl)⟩

theorem addAIndHl : Statement .addAIndHl :=
  ⟨Nat.le_of_ble_eq_true rfl, Nat.le_of_ble_eq_true rfl, fun h => absurd h (Nat.ne_of_beq_eq_false rfl)⟩

theorem addAIdx (xy : IdxReg) (d : Byte) : Statement (.addAIdx xy d) :=
  ⟨Nat.le_of_ble_eq_true rfl, Nat.le_of_ble_eq_true rfl, fun h => absurd h (Nat.ne_of_beq_eq_false rfl)⟩

theorem adcAR (r : Reg8) : Statement (.adcAR r) :=
  ⟨Nat.le_of_ble_eq_true rfl, Nat.le_of_ble_eq_true rfl, fun h => absurd h (Nat.ne_of_beq_eq_false rfl)⟩

theorem adcAN (n : Byte) : Statement (.adcAN n) :=
  ⟨Nat.le_of_ble_eq_true rfl, Nat.le_of_ble_eq_true rfl, fun h => absurd h (Nat.ne_of_beq_eq_false rfl)⟩

theorem adcAIndHl : Statement .adcAIndHl :=
  ⟨Nat.le_of_ble_eq_true rfl, Nat.le_of_ble_eq_true rfl, fun h => absurd h (Nat.ne_of_beq_eq_false rfl)⟩

theorem adcAIdx (xy : IdxReg) (d : Byte) : Statement (.adcAIdx xy d) :=
  ⟨Nat.le_of_ble_eq_true rfl, Nat.le_of_ble_eq_true rfl, fun h => absurd h (Nat.ne_of_beq_eq_false rfl)⟩

theorem subR (r : Reg8) : Statement (.subR r) :=
  ⟨Nat.le_of_ble_eq_true rfl, Nat.le_of_ble_eq_true rfl, fun h => absurd h (Nat.ne_of_beq_eq_false rfl)⟩

theorem subN (n : Byte) : Statement (.subN n) :=
  ⟨Nat.le_of_ble_eq_true rfl, Nat.le_of_ble_eq_true rfl, fun h => absurd h (Nat.ne_of_beq_eq_false rfl)⟩

theorem subIndHl : Statement .subIndHl :=
  ⟨Nat.le_of_ble_eq_true rfl, Nat.le_of_ble_eq_true rfl, fun h => absurd h (Nat.ne_of_beq_eq_false rfl)⟩

theorem subIdx (xy : IdxReg) (d : Byte) : Statement (.subIdx xy d) :=
  ⟨Nat.le_of_ble_eq_true rfl, Nat.le_of_ble_eq_true rfl, fun h => absurd h (Nat.ne_of_beq_eq_false rfl)⟩

theorem sbcAR (r : Reg8) : Statement (.sbcAR r) :=
  ⟨Nat.le_of_ble_eq_true rfl, Nat.le_of_ble_eq_true rfl, fun h => absurd h (Nat.ne_of_beq_eq_false rfl)⟩

theorem sbcAN (n : Byte) : Statement (.sbcAN n) :=
  ⟨Nat.le_of_ble_eq_true rfl, Nat.le_of_ble_eq_true rfl, fun h => absurd h (Nat.ne_of_beq_eq_false rfl)⟩

theorem sbcAIndHl : Statement .sbcAIndHl :=
  ⟨Nat.le_of_ble_eq_true rfl, Nat.le_of_ble_eq_true rfl, fun h => absurd h (Nat.ne_of_beq_eq_false rfl)⟩

theorem sbcAIdx (xy : IdxReg) (d : Byte) : Statement (.sbcAIdx xy d) :=
  ⟨Nat.le_of_ble_eq_true rfl, Nat.le_of_ble_eq_true rfl, fun h => absurd h (Nat.ne_of_beq_eq_false rfl)⟩

theorem andR (r : Reg8) : Statement (.andR r) :=
  ⟨Nat.le_of_ble_eq_true rfl, Nat.le_of_ble_eq_true rfl, fun h => absurd h (Nat.ne_of_beq_eq_false rfl)⟩

theorem andN (n : Byte) : Statement (.andN n) :=
  ⟨Nat.le_of_ble_eq_true rfl, Nat.le_of_ble_eq_true rfl, fun h => absurd h (Nat.ne_of_beq_eq_false rfl)⟩

theorem andIndHl : Statement .andIndHl :=
  ⟨Nat.le_of_ble_eq_true rfl, Nat.le_of_ble_eq_true rfl, fun h => absurd h (Nat.ne_of_beq_eq_false rfl)⟩

theorem andIdx (xy : IdxReg) (d : Byte) : Statement (.andIdx xy d) :=
  ⟨Nat.le_of_ble_eq_true rfl, Nat.le_of_ble_eq_true rfl, fun h => absurd h (Nat.ne_of_beq_eq_false rfl)⟩

theorem xorR (r : Reg8) : Statement (.xorR r) :=
  ⟨Nat.le_of_ble_eq_true rfl, Nat.le_of_ble_eq_true rfl, fun h => absurd h (Nat.ne_of_beq_eq_false rfl)⟩

theorem xorN (n : Byte) : Statement (.xorN n) :=
  ⟨Nat.le_of_ble_eq_true rfl, Nat.le_of_ble_eq_true rfl, fun h => absurd h (Nat.ne_of_beq_eq_false rfl)⟩

theorem xorIndHl : Statement .xorIndHl :=
  ⟨Nat.le_of_ble_eq_true rfl, Nat.le_of_ble_eq_true rfl, fun h => absurd h (Nat.ne_of_beq_eq_false rfl)⟩

theorem xorIdx (xy : IdxReg) (d : Byte) : Statement (.xorIdx xy d) :=
  ⟨Nat.le_of_ble_eq_true rfl, Nat.le_of_ble_eq_true rfl, fun h => absurd h (Nat.ne_of_beq_eq_false rfl)⟩

theorem orR (r : Reg8) : Statement (.orR r) :=
  ⟨Nat.le_of_ble_eq_true rfl, Nat.le_of_ble_eq_true rfl, fun h => absurd h (Nat.ne_of_beq_eq_false rfl)⟩

theorem orN (n : Byte) : Statement (.orN n) :=
  ⟨Nat.le_of_ble_eq_true rfl, Nat.le_of_ble_eq_true rfl, fun h => absurd h (Nat.ne_of_beq_eq_false rfl)⟩

theorem orIndHl : Statement .orIndHl :=
  ⟨Nat.le_of_ble_eq_true rfl, Nat.le_of_ble_eq_true rfl, fun h => absurd h (Nat.ne_of_beq_eq_false rfl)⟩

theorem orIdx (xy : IdxReg) (d : Byte) : Statement (.orIdx xy d) :=
  ⟨Nat.le_of_ble_eq_true rfl, Nat.le_of_ble_eq_true rfl, fun h => absurd h (Nat.ne_of_beq_eq_false rfl)⟩

theorem cpR (r : Reg8) : Statement (.cpR r) :=
  ⟨Nat.le_of_ble_eq_true rfl, Nat.le_of_ble_eq_true rfl, fun h => absurd h (Nat.ne_of_beq_eq_false rfl)⟩

theorem cpN (n : Byte) : Statement (.cpN n) :=
  ⟨Nat.le_of_ble_eq_true rfl, Nat.le_of_ble_eq_true rfl, fun h => absurd h (Nat.ne_of_beq_eq_false rfl)⟩

theorem cpIndHl : Statement .cpIndHl :=
  ⟨Nat.le_of_ble_eq_true rfl, Nat.le_of_ble_eq_true rfl, fun h => absurd h (Nat.ne_of_beq_eq_false rfl)⟩

theorem cpIdx (xy : IdxReg) (d : Byte) : Statement (.cpIdx xy d) :=
  ⟨Nat.le_of_ble_eq_true rfl, Nat.le_of_ble_eq_true rfl, fun h => absurd h (Nat.ne_of_beq_eq_false rfl)⟩

theorem incR (r : Reg8) : Statement (.incR r) :=
  ⟨Nat.le_of_ble_eq_true rfl, Nat.le_of_ble_eq_true rfl, fun h => absurd h (Nat.ne_of_beq_eq_false rfl)⟩

theorem incIndHl : Statement .incIndHl :=
  ⟨Nat.le_of_ble_eq_true rfl, Nat.le_of_ble_eq_true rfl, fun h => absurd h (Nat.ne_of_beq_eq_false rfl)⟩

theorem incIdx (xy : IdxReg) (d : Byte) : Statement (.incIdx xy d) :=
  ⟨Nat.le_of_ble_eq_true rfl, Nat.le_of_ble_eq_true rfl, fun h => absurd h (Nat.ne_of_beq_eq_false rfl)⟩

theorem decR (r : Reg8) : Statement (.decR r) :=
  ⟨Nat.le_of_ble_eq_true rfl, Nat.le_of_ble_eq_true rfl, fun h => absurd h (Nat.ne_of_beq_eq_false rfl)⟩

theorem decIndHl : Statement .decIndHl :=
  ⟨Nat.le_of_ble_eq_true rfl, Nat.le_of_ble_eq_true rfl, fun h => absurd h (Nat.ne_of_beq_eq_false rfl)⟩

theorem decIdx (xy : IdxReg) (d : Byte) : Statement (.decIdx xy d) :=
  ⟨Nat.le_of_ble_eq_true rfl, Nat.le_of_ble_eq_true rfl, fun h => absurd h (Nat.ne_of_beq_eq_false rfl)⟩

theorem daa : Statement .daa :=
  ⟨Nat.le_of_ble_eq_true rfl, Nat.le_of_ble_eq_true rfl, fun h => absurd h (Nat.ne_of_beq_eq_false rfl)⟩

theorem cpl : Statement .cpl :=
  ⟨Nat.le_of_ble_eq_true rfl, Nat.le_of_ble_eq_true rfl, fun h => absurd h (Nat.ne_of_beq_eq_false rfl)⟩

theorem neg : Statement .neg :=
  ⟨Nat.le_of_ble_eq_true rfl, Nat.le_of_ble_eq_true rfl, fun h => absurd h (Nat.ne_of_beq_eq_false rfl)⟩

theorem ccf : Statement .ccf :=
  ⟨Nat.le_of_ble_eq_true rfl, Nat.le_of_ble_eq_true rfl, fun h => absurd h (Nat.ne_of_beq_eq_false rfl)⟩

theorem scf : Statement .scf :=
  ⟨Nat.le_of_ble_eq_true rfl, Nat.le_of_ble_eq_true rfl, fun h => absurd h (Nat.ne_of_beq_eq_false rfl)⟩

theorem nop : Statement .nop :=
  ⟨Nat.le_of_ble_eq_true rfl, Nat.le_of_ble_eq_true rfl, fun h => absurd h (Nat.ne_of_beq_eq_false rfl)⟩

theorem halt : Statement .halt :=
  ⟨Nat.le_of_ble_eq_true rfl, Nat.le_of_ble_eq_true rfl, fun h => absurd h (Nat.ne_of_beq_eq_false rfl)⟩

theorem di : Statement .di :=
  ⟨Nat.le_of_ble_eq_true rfl, Nat.le_of_ble_eq_true rfl, fun h => absurd h (Nat.ne_of_beq_eq_false rfl)⟩

theorem ei : Statement .ei :=
  ⟨Nat.le_of_ble_eq_true rfl, Nat.le_of_ble_eq_true rfl, fun h => absurd h (Nat.ne_of_beq_eq_false rfl)⟩

theorem im0 : Statement .im0 :=
  ⟨Nat.le_of_ble_eq_true rfl, Nat.le_of_ble_eq_true rfl, fun h => absurd h (Nat.ne_of_beq_eq_false rfl)⟩

theorem im1 : Statement .im1 :=
  ⟨Nat.le_of_ble_eq_true rfl, Nat.le_of_ble_eq_true rfl, fun h => absurd h (Nat.ne_of_beq_eq_false rfl)⟩

theorem im2 : Statement .im2 :=
  ⟨Nat.le_of_ble_eq_true rfl, Nat.le_of_ble_eq_true rfl, fun h => absurd h (Nat.ne_of_beq_eq_false rfl)⟩

theorem addHlSs (ss : Pair) : Statement (.addHlSs ss) :=
  ⟨Nat.le_of_ble_eq_true rfl, Nat.le_of_ble_eq_true rfl, fun h => absurd h (Nat.ne_of_beq_eq_false rfl)⟩

theorem adcHlSs (ss : Pair) : Statement (.adcHlSs ss) :=
  ⟨Nat.le_of_ble_eq_true rfl, Nat.le_of_ble_eq_true rfl, fun h => absurd h (Nat.ne_of_beq_eq_false rfl)⟩

theorem sbcHlSs (ss : Pair) : Statement (.sbcHlSs ss) :=
  ⟨Nat.le_of_ble_eq_true rfl, Nat.le_of_ble_eq_true rfl, fun h => absurd h (Nat.ne_of_beq_eq_false rfl)⟩

theorem addXyPp (xy : IdxReg) (pp : IdxPair) : Statement (.addXyPp xy pp) :=
  ⟨Nat.le_of_ble_eq_true rfl, Nat.le_of_ble_eq_true rfl, fun h => absurd h (Nat.ne_of_beq_eq_false rfl)⟩

theorem incSs (ss : Pair) : Statement (.incSs ss) :=
  ⟨Nat.le_of_ble_eq_true rfl, Nat.le_of_ble_eq_true rfl, fun h => absurd h (Nat.ne_of_beq_eq_false rfl)⟩

theorem incXy (xy : IdxReg) : Statement (.incXy xy) :=
  ⟨Nat.le_of_ble_eq_true rfl, Nat.le_of_ble_eq_true rfl, fun h => absurd h (Nat.ne_of_beq_eq_false rfl)⟩

theorem decSs (ss : Pair) : Statement (.decSs ss) :=
  ⟨Nat.le_of_ble_eq_true rfl, Nat.le_of_ble_eq_true rfl, fun h => absurd h (Nat.ne_of_beq_eq_false rfl)⟩

theorem decXy (xy : IdxReg) : Statement (.decXy xy) :=
  ⟨Nat.le_of_ble_eq_true rfl, Nat.le_of_ble_eq_true rfl, fun h => absurd h (Nat.ne_of_beq_eq_false rfl)⟩

theorem rlca : Statement .rlca :=
  ⟨Nat.le_of_ble_eq_true rfl, Nat.le_of_ble_eq_true rfl, fun h => absurd h (Nat.ne_of_beq_eq_false rfl)⟩

theorem rla : Statement .rla :=
  ⟨Nat.le_of_ble_eq_true rfl, Nat.le_of_ble_eq_true rfl, fun h => absurd h (Nat.ne_of_beq_eq_false rfl)⟩

theorem rrca : Statement .rrca :=
  ⟨Nat.le_of_ble_eq_true rfl, Nat.le_of_ble_eq_true rfl, fun h => absurd h (Nat.ne_of_beq_eq_false rfl)⟩

theorem rra : Statement .rra :=
  ⟨Nat.le_of_ble_eq_true rfl, Nat.le_of_ble_eq_true rfl, fun h => absurd h (Nat.ne_of_beq_eq_false rfl)⟩

theorem rlcR (r : Reg8) : Statement (.rlcR r) :=
  ⟨Nat.le_of_ble_eq_true rfl, Nat.le_of_ble_eq_true rfl, fun h => absurd h (Nat.ne_of_beq_eq_false rfl)⟩

theorem rlcIndHl : Statement .rlcIndHl :=
  ⟨Nat.le_of_ble_eq_true rfl, Nat.le_of_ble_eq_true rfl, fun h => absurd h (Nat.ne_of_beq_eq_false rfl)⟩

theorem rlcIdx (xy : IdxReg) (d : Byte) : Statement (.rlcIdx xy d) :=
  ⟨Nat.le_of_ble_eq_true rfl, Nat.le_of_ble_eq_true rfl, fun _ => xy_table xy _⟩

theorem rrcR (r : Reg8) : Statement (.rrcR r) :=
  ⟨Nat.le_of_ble_eq_true rfl, Nat.le_of_ble_eq_true rfl, fun h => absurd h (Nat.ne_of_beq_eq_false rfl)⟩

theorem rrcIndHl : Statement .rrcIndHl :=
  ⟨Nat.le_of_ble_eq_true rfl, Nat.le_of_ble_eq_true rfl, fun h => absurd h (Nat.ne_of_beq_eq_false rfl)⟩

theorem rrcIdx (xy : IdxReg) (d : Byte) : Statement (.rrcIdx xy d) :=
  ⟨Nat.le_of_ble_eq_true rfl, Nat.le_of_ble_eq_true rfl, fun _ => xy_table xy _⟩

theorem rlR (r : Reg8) : Statement (.rlR r) :=
  ⟨Nat.le_of_ble_eq_true rfl, Nat.le_of_ble_eq_true rfl, fun h => absurd h (Nat.ne_of_beq_eq_false rfl)⟩

theorem rlIndHl : Statement .rlIndHl :=
  ⟨Nat.le_of_ble_eq_true rfl, Nat.le_of_ble_eq_true rfl, fun h => absurd h (Nat.ne_of_beq_eq_false rfl)⟩

theorem rlIdx (xy : IdxReg) (d : Byte) : Statement (.rlIdx xy d) :=
  ⟨Nat.le_of_ble_eq_true rfl, Nat.le_of_ble_eq_true rfl, fun _ => xy_table xy _⟩

theorem rrR (r : Reg8) : Statement (.rrR r) :=
  ⟨Nat.le_of_ble_eq_true rfl, Nat.le_of_ble_eq_true rfl, fun h => absurd h (Nat.ne_of_beq_eq_false rfl)⟩

theorem rrIndHl : Statement .rrIndHl :=
  ⟨Nat.le_of_ble_eq_true rfl, Nat.le_of_ble_eq_true rfl, fun h => absurd h (Nat.ne_of_beq_eq_false rfl)⟩

theorem rrIdx (xy : IdxReg) (d : Byte) : Statement (.rrIdx xy d) :=
  ⟨Nat.le_of_ble_eq_true rfl, Nat.le_of_ble_eq_true rfl, fun _ => xy_table xy _⟩

theorem slaR (r : Reg8) : Statement (.slaR r) :=
  ⟨Nat.le_of_ble_eq_true rfl, Nat.le_of_ble_eq_true rfl, fun h => absurd h (Nat.ne_of_beq_eq_false rfl)⟩

theorem slaIndHl : Statement .slaIndHl :=
  ⟨Nat.le_of_ble_eq_true rfl, Nat.le_of_ble_eq_true rfl, fun h => absurd h (Nat.ne_of_beq_eq_false rfl)⟩

theorem slaIdx (xy : IdxReg) (d : Byte) : Statement (.slaIdx xy d) :=
  ⟨Nat.le_of_ble_eq_true rfl, Nat.le_of_ble_eq_true rfl, fun _ => xy_table xy _⟩

theorem sraR (r : Reg8) : Statement (.sraR r) :=
  ⟨Nat.le_of_ble_eq_true rfl, Nat.le_of_ble_eq_true rfl, fun h => absurd h (Nat.ne_of_beq_eq_false rfl)⟩

theorem sraIndHl : Statement .sraIndHl :=
  ⟨Nat.le_of_ble_eq_true rfl, Nat.le_of_ble_eq_true rfl, fun h => absurd h (Nat.ne_of_beq_eq_false rfl)⟩

theorem sraIdx (xy : IdxReg) (d : Byte) : Statement (.sraIdx xy d) :=
  ⟨Nat.le_of_ble_eq_true rfl, Nat.le_of_ble_eq_true rfl, fun _ => xy_table xy _⟩

theorem srlR (r : Reg8) : Statement (.srlR r) :=
  ⟨Nat.le_of_ble_eq_true rfl, Nat.le_of_ble_eq_true rfl, fun h => absurd h (Nat.ne_of_beq_eq_false rfl)⟩

theorem srlIndHl : Statement .srlIndHl :=
  ⟨Nat.le_of_ble_eq_true rfl, Nat.le_of_ble_eq_true rfl, fun h => absurd h (Nat.ne_of_beq_eq_false rfl)⟩

theorem srlIdx (xy : IdxReg) (d : Byte) : Statement (.srlIdx xy d) :=
  ⟨Nat.le_of_ble_eq_true rfl, Nat.le_of_ble_eq_true rfl, fun _ => xy_table xy _⟩

theorem rld : Statement .rld :=
  ⟨Nat.le_of_ble_eq_true rfl, Nat.le_of_ble_eq_true rfl, fun h => absurd h (Nat.ne_of_beq_eq_false rfl)⟩

theorem rrd : Statement .rrd :=
  ⟨Nat.le_of_ble_eq_true rfl, Nat.le_of_ble_eq_true rfl, fun h => absurd h (Nat.ne_of_beq_eq_false rfl)⟩

theorem bitR (b : BitVec 3) (r : Reg8) : Statement (.bitR b r) :=
  ⟨Nat.le_of_ble_eq_true rfl, Nat.le_of_ble_eq_true rfl, fun h => absurd h (Nat.ne_of_beq_eq_false rfl)⟩

theorem bitIndHl (b : BitVec 3) : Statement (.bitIndHl b) :=
  ⟨Nat.le_of_ble_eq_true rfl, Nat.le_of_ble_eq_true rfl, fun h => absurd h (Nat.ne_of_beq_eq_false rfl)⟩

theorem bitIdx (b : BitVec 3) (xy : IdxReg) (d : Byte) : Statement (.bitIdx b xy d) :=
  ⟨Nat.le_of_ble_eq_true rfl, Nat.le_of_ble_eq_true rfl, fun _ => xy_table xy _⟩

theorem setR (b : BitVec 3) (r : Reg8) : Statement (.setR b r) :=
  ⟨Nat.le_of_ble_eq_true rfl, Nat.le_of_ble_eq_true rfl, fun h => absurd h (Nat.ne_of_beq_eq_false rfl)⟩

theorem setIndHl (b : BitVec 3) : Statement (.setIndHl b) :=
  ⟨Nat.le_of_ble_eq_true rfl, Nat.le_of_ble_eq_true rfl, fun h => absurd h (Nat.ne_of_beq_eq_false rfl)⟩

theorem setIdx (b : BitVec 3) (xy : IdxReg) (d : Byte) : Statement (.setIdx b xy d) :=
  ⟨Nat.le_of_ble_eq_true rfl, Nat.le_of_ble_eq_true rfl, fun _ => xy_table xy _⟩

theorem resR (b : BitVec 3) (r : Reg8) : Statement (.resR b r) :=
  ⟨Nat.le_of_ble_eq_true rfl, Nat.le_of_ble_eq_true rfl, fun h => absurd h (Nat.ne_of_beq_eq_false rfl)⟩

theorem resIndHl (b : BitVec 3) : Statement (.resIndHl b) :=
  ⟨Nat.le_of_ble_eq_true rfl, Nat.le_of_ble_eq_true rfl, fun h => absurd h (Nat.ne_of_beq_eq_false rfl)⟩

theorem resIdx (b : BitVec 3) (xy : IdxReg) (d : Byte) : Statement (.resIdx b xy d) :=
  ⟨Nat.le_of_ble_eq_true rfl, Nat.le_of_ble_eq_true rfl, fun _ => xy_table xy _⟩

theorem jpNn (nn : Word) : Statement (.jpNn nn) :=
  ⟨Nat.le_of_ble_eq_true rfl, Nat.le_of_ble_eq_true rfl, fun h => absurd h (Nat.ne_of_beq_eq_false rfl)⟩

theorem jpCcNn (cc : Cond) (nn : Word) : Statement (.jpCcNn cc nn) :=
  ⟨Nat.le_of_ble_eq_true rfl, Nat.le_of_ble_eq_true rfl, fun h => absurd h (Nat.ne_of_beq_eq_false rfl)⟩

theorem jrE (e : Byte) : Statement (.jrE e) :=
  ⟨Nat.le_of_ble_eq_true rfl, Nat.le_of_ble_eq_true rfl, fun h => absurd h (Nat.ne_of_beq_eq_false rfl)⟩

theorem jrCcE (cc : Cond) (e : Byte) : Statement (.jrCcE cc e) :=
  ⟨Nat.le_of_ble_eq_true rfl, Nat.le_of_ble_eq_true rfl, fun h => absurd h (Nat.ne_of_beq_eq_false rfl)⟩

theorem jpIndHl : Statement .jpIndHl :=
  ⟨Nat.le_of_ble_eq_true rfl, Nat.le_of_ble_eq_true rfl, fun h => absurd h (Nat.ne_of_beq_eq_false rfl)⟩

theorem jpIndXy (xy : IdxReg) : Statement (.jpIndXy xy) :=
  ⟨Nat.le_of_ble_eq_true rfl, Nat.le_of_ble_eq_true rfl, fun h => absurd h (Nat.ne_of_beq_eq_false rfl)⟩

theorem djnzE (e : Byte) : Statement (.djnzE e) :=
  ⟨Nat.le_of_ble_eq_true rfl, Nat.le_of_ble_eq_true rfl, fun h => absurd h (Nat.ne_of_beq_eq_false rfl)⟩

theorem callNn (nn : Word) : Statement (.callNn nn) :=
  ⟨Nat.le_of_ble_eq_true rfl, Nat.le_of_ble_eq_true rfl, fun h => absurd h (Nat.ne_of_beq_eq_false rfl)⟩

theorem callCcNn (cc : Cond) (nn : Word) : Statement (.callCcNn cc nn) :=
  ⟨Nat.le_of_ble_eq_true rfl, Nat.le_of_ble_eq_true rfl, fun h => absurd h (Nat.ne_of_beq_eq_false rfl)⟩

theorem ret : Statement .ret :=
  ⟨Nat.le_of_ble_eq_true rfl, Nat.le_of_ble_eq_true rfl, fun h => absurd h (Nat.ne_of_beq_eq_false rfl)⟩

theorem reti : Statement .reti :=
  ⟨Nat.le_of_ble_eq_true rfl, Nat.le_of_ble_eq_true rfl, fun h => absurd h (Nat.ne_of_beq_eq_false rfl)⟩

theorem retn : Statement .retn :=
  ⟨Nat.le_of_ble_eq_true rfl, Nat.le_of_ble_eq_true rfl, fun h => absurd h (Nat.ne_of_beq_eq_false rfl)⟩

theorem rstP (p : Byte) : Statement (.rstP p) :=
  ⟨Nat.le_of_ble_eq_true rfl, Nat.le_of_ble_eq_true rfl, fun h => absurd h (Nat.ne_of_beq_eq_false rfl)⟩

theorem retCc (cc : Cond) : Statement (.retCc cc) :=
  ⟨Nat.le_of_ble_eq_true rfl, Nat.le_of_ble_eq_true rfl, fun h => absurd h (Nat.ne_of_beq_eq_false rfl)⟩

theorem inAIndN (n : Byte) : Statement (.inAIndN n) :=
  ⟨Nat.le_of_ble_eq_true rfl, Nat.le_of_ble_eq_true rfl, fun h => absurd h (Nat.ne_of_beq_eq_false rfl)⟩

theorem inRIndC (r : Reg8) : Statement (.inRIndC r) :=
  ⟨Nat.le_of_ble_eq_true rfl, Nat.le_of_ble_eq_true rfl, fun h => absurd h (Nat.ne_of_beq_eq_false rfl)⟩

theorem outIndNA (n : Byte) : Statement (.outIndNA n) :=
  ⟨Nat.le_of_ble_eq_true rfl, Nat.le_of_ble_eq_true rfl, fun h => absurd h (Nat.ne_of_beq_eq_false rfl)⟩

theorem outIndCR (r : Reg8) : Statement (.outIndCR r) :=
  ⟨Nat.le_of_ble_eq_true rfl, Nat.le_of_ble_eq_true rfl, fun h => absurd h (Nat.ne_of_beq_eq_false rfl)⟩

theorem ini : Statement .ini :=
  ⟨Nat.le_of_ble_eq_true rfl, Nat.le_of_ble_eq_true rfl, fun h => absurd h (Nat.ne_of_beq_eq_false rfl)⟩

theorem inir : Statement .inir :=
  ⟨Nat.le_of_ble_eq_true rfl, Nat.le_of_ble_eq_true rfl, fun h => absurd h (Nat.ne_of_beq_eq_false rfl)⟩

theorem ind : Statement .ind :=
  ⟨Nat.le_of_ble_eq_true rfl, Nat.le_of_ble_eq_true rfl, fun h => absurd h (Nat.ne_of_beq_eq_false rfl)⟩

theorem indr : Statement .indr :=
  ⟨Nat.le_of_ble_eq_true rfl, Nat.le_of_ble_eq_true rfl, fun h => absurd h (Nat.ne_of_beq_eq_false rfl)⟩

theorem outi : Statement .outi :=
  ⟨Nat.le_of_ble_eq_true rfl, Nat.le_of_ble_eq_true rfl, fun h => absurd h (Nat.ne_of_beq_eq_false rfl)⟩

theorem otir : Statement .otir :=
  ⟨Nat.le_of_ble_eq_true rfl, Nat.le_of_ble_eq_true rfl, fun h => absurd h (Nat.ne_of_beq_eq_false rfl)⟩

theorem outd : Statement .outd :=
  ⟨Nat.le_of_ble_eq_true rfl, Nat.le_of_ble_eq_true rfl, fun h => absurd h (Nat.ne_of_beq_eq_false rfl)⟩

theorem otdr : Statement .otdr :=
  ⟨Nat.le_of_ble_eq_true rfl, Nat.le_of_ble_eq_true rfl, fun h => absurd h (Nat.ne_of_beq_eq_false rfl)⟩

end Sys2Proof.Laws.EncodedLength
end

