-- ==== Sys2Proof/Laws/Step.lean ====
section
/-! SUPPORT. What every instruction keeps, said once: one lemma per constructor and the lemma for all. The
statements about every step rest on it. -/

namespace Sys2Proof.Machine

open Sys2Proof

/-- What executing `i` from `s` to `t` keeps, whatever `i` is: the fault, the host's inputs, the parameters
and the cartridge; the canonical form of memory; a cost of 4 to 23 cycles; and the registers only a named
instruction writes. -/
def ExecKeeps (i : Instr) (s t : State) : Prop :=
  KeepsHost s t ∧ (s.mc.sound → t.mc.sound) ∧ 4 ≤ t.lastCycles ∧ t.lastCycles ≤ 23 ∧
    (t.alt = s.alt ∨ i = .exAfAf ∨ i = .exx) ∧
    (t.regI = s.regI ∨ i = .ldIA) ∧
    (t.regR = s.regR ∨ i = .ldRA ∧ t.regR = s.main.a) ∧
    (t.im = s.im ∨ i = .im0 ∨ i = .im1 ∨ i = .im2) ∧
    (t.halted = s.halted ∨ i = .halt) ∧
    (t.iff1 = s.iff1 ∧ t.iff2 = s.iff2 ∨ t.iff1 = t.iff2) ∧
    (i = .ei → t.iff1 = true ∧ t.eiDelay = (s.cfg.hasInterrupts || s.eiDelay)) ∧
    (i ≠ .ei → t.eiDelay = s.eiDelay) ∧
    (t.ix = s.ix ∨ (encode i).head? = some 0xDD#8) ∧ (t.iy = s.iy ∨ (encode i).head? = some 0xFD#8)

/-- An instruction that keeps the rest keeps all this. -/
theorem ExecKeeps.of (i : Instr) (s t : State) (h : KeepsRest s t) (hs : s.mc.sound → t.mc.sound)
    (hc : 4 ≤ t.lastCycles ∧ t.lastCycles ≤ 23) (hi : i ≠ .ei)
    (hx : t.ix = s.ix ∨ (encode i).head? = some 0xDD#8) (hy : t.iy = s.iy ∨ (encode i).head? = some 0xFD#8) :
    ExecKeeps i s t := by
  obtain ⟨h1, ⟨h2, h3⟩, ⟨h4, h5, h6, h7, h8⟩, _, h11⟩ := h
  exact ⟨h11, hs, hc.1, hc.2, .inl h1, .inl h2, .inl h3, .inl h6, .inl h7, .inl ⟨h4, h5⟩, fun e => absurd e hi,
    fun _ => h8, hx, hy⟩

/-- An instruction of the I/O family keeps it too. -/
theorem ExecKeeps.ofIo (i : Instr) (s t : State) (h : KeepsOthersButIo s t) (hs : s.mc.sound → t.mc.sound)
    (hc : 4 ≤ t.lastCycles ∧ t.lastCycles ≤ 23) (hi : i ≠ .ei)
    (hx : t.ix = s.ix ∨ (encode i).head? = some 0xDD#8) (hy : t.iy = s.iy ∨ (encode i).head? = some 0xFD#8) :
    ExecKeeps i s t := by
  obtain ⟨_, _, h1, ⟨h2, h3⟩, ⟨h4, h5, h6, h7, h8⟩, h11⟩ := h
  exact ⟨h11, hs, hc.1, hc.2, .inl h1, .inl h2, .inl h3, .inl h6, .inl h7, .inl ⟨h4, h5⟩, fun e => absurd e hi,
    fun _ => h8, hx, hy⟩

/-- The memory controller's soundness, where it stays or one or two bytes are written. -/
theorem sound_same {m n : MemCtl} (h : n = m) : m.sound → n.sound := fun k => h ▸ k

theorem sound_write {m n : MemCtl} {a : Word} {v : Byte} (h : n = m.write a v) : m.sound → n.sound :=
  fun k => h ▸ m.write_sound a v k

theorem sound_write2 {m n : MemCtl} {a b : Word} {v w : Byte} (h : n = (m.write a v).write b w) :
    m.sound → n.sound :=
  fun k => h ▸ (m.write a v).write_sound b w (m.write_sound a v k)

/-- One iteration of a block copy, whatever its direction, and the end of the instruction. -/
theorem ExecKeeps.ofCopy (i : Instr) (s : State) (step w : Word) (n : Nat) (hc : 4 ≤ n ∧ n ≤ 23) (hi : i ≠ .ei) :
    ExecKeeps i s ((s.copyByte step).goto w n) :=
  ExecKeeps.of _ s _ ((s.memWrite_keepsRest s.de (s.memRead s.hl)).trans
    (keepsRest_of_mc _ _ rfl rfl rfl rfl rfl rfl rfl rfl rfl rfl rfl rfl rfl rfl rfl rfl)) (sound_write rfl) hc hi
    (.inl rfl) (.inl rfl)

/-- One iteration of a block search, whatever its direction, and the end of the instruction. -/
theorem ExecKeeps.ofSearch (i : Instr) (s : State) (step w : Word) (n : Nat) (hc : 4 ≤ n ∧ n ≤ 23) (hi : i ≠ .ei) :
    ExecKeeps i s ((s.compareByte step).goto w n) :=
  ExecKeeps.of _ s _ (keepsRest_of_mc _ _ rfl rfl rfl rfl rfl rfl rfl rfl rfl rfl rfl rfl rfl rfl rfl rfl)
    (sound_same rfl) hc hi (.inl rfl) (.inl rfl)

/-- `advance` is a `goto`. -/
theorem State.advance_eq_goto (s : State) (len : Word) (n : Nat) : s.advance len n = s.goto (s.pc + len) n := rfl

theorem exec_keeps_ldRR (r : Reg8) (q : Reg8) (s : State) :
    ∃ t, exec (.ldRR r q) s = .next t ∧ ExecKeeps (.ldRR r q) s t :=
  by
  refine ⟨_, rfl, ?_⟩
  cases r <;> exact ExecKeeps.of _ s _ (keepsRest_of_mc _ _ rfl rfl rfl rfl rfl rfl rfl rfl rfl rfl rfl rfl rfl rfl rfl rfl)
    (sound_same rfl) ⟨Nat.le_of_ble_eq_true rfl, Nat.le_of_ble_eq_true rfl⟩ (fun e => by cases e) (.inl rfl) (.inl rfl)

theorem exec_keeps_ldRN (r : Reg8) (n : Byte) (s : State) :
    ∃ t, exec (.ldRN r n) s = .next t ∧ ExecKeeps (.ldRN r n) s t :=
  by
  refine ⟨_, rfl, ?_⟩
  cases r <;> exact ExecKeeps.of _ s _ (keepsRest_of_mc _ _ rfl rfl rfl rfl rfl rfl rfl rfl rfl rfl rfl rfl rfl rfl rfl rfl)
    (sound_same rfl) ⟨Nat.le_of_ble_eq_true rfl, Nat.le_of_ble_eq_true rfl⟩ (fun e => by cases e) (.inl rfl) (.inl rfl)

theorem exec_keeps_ldRIndHl (r : Reg8) (s : State) :
    ∃ t, exec (.ldRIndHl r) s = .next t ∧ ExecKeeps (.ldRIndHl r) s t :=
  by
  refine ⟨_, rfl, ?_⟩
  cases r <;> exact ExecKeeps.of _ s _ (keepsRest_of_mc _ _ rfl rfl rfl rfl rfl rfl rfl rfl rfl rfl rfl rfl rfl rfl rfl rfl)
    (sound_same rfl) ⟨Nat.le_of_ble_eq_true rfl, Nat.le_of_ble_eq_true rfl⟩ (fun e => by cases e) (.inl rfl) (.inl rfl)

theorem exec_keeps_ldIndHlR (r : Reg8) (s : State) :
    ∃ t, exec (.ldIndHlR r) s = .next t ∧ ExecKeeps (.ldIndHlR r) s t :=
  ⟨_, rfl, ExecKeeps.of _ s _ ((s.memWrite_keepsRest _ _).trans (keepsRest_of_mc _ _ rfl rfl rfl rfl rfl rfl rfl rfl rfl rfl rfl rfl rfl rfl rfl rfl))
    (sound_write rfl) ⟨Nat.le_of_ble_eq_true rfl, Nat.le_of_ble_eq_true rfl⟩ (fun e => by cases e) (.inl rfl) (.inl rfl)⟩

theorem exec_keeps_ldIndHlN (n : Byte) (s : State) :
    ∃ t, exec (.ldIndHlN n) s = .next t ∧ ExecKeeps (.ldIndHlN n) s t :=
  ⟨_, rfl, ExecKeeps.of _ s _ ((s.memWrite_keepsRest _ _).trans (keepsRest_of_mc _ _ rfl rfl rfl rfl rfl rfl rfl rfl rfl rfl rfl rfl rfl rfl rfl rfl))
    (sound_write rfl) ⟨Nat.le_of_ble_eq_true rfl, Nat.le_of_ble_eq_true rfl⟩ (fun e => by cases e) (.inl rfl) (.inl rfl)⟩

theorem exec_keeps_ldAIndBc (s : State) :
    ∃ t, exec .ldAIndBc s = .next t ∧ ExecKeeps .ldAIndBc s t :=
  ⟨_, rfl, ExecKeeps.of _ s _ (keepsRest_of_mc _ _ rfl rfl rfl rfl rfl rfl rfl rfl rfl rfl rfl rfl rfl rfl rfl rfl)
    (sound_same rfl) ⟨Nat.le_of_ble_eq_true rfl, Nat.le_of_ble_eq_true rfl⟩ (fun e => by cases e) (.inl rfl) (.inl rfl)⟩

theorem exec_keeps_ldAIndDe (s : State) :
    ∃ t, exec .ldAIndDe s = .next t ∧ ExecKeeps .ldAIndDe s t :=
  ⟨_, rfl, ExecKeeps.of _ s _ (keepsRest_of_mc _ _ rfl rfl rfl rfl rfl rfl rfl rfl rfl rfl rfl rfl rfl rfl rfl rfl)
    (sound_same rfl) ⟨Nat.le_of_ble_eq_true rfl, Nat.le_of_ble_eq_true rfl⟩ (fun e => by cases e) (.inl rfl) (.inl rfl)⟩

theorem exec_keeps_ldAIndNn (nn : Word) (s : State) :
    ∃ t, exec (.ldAIndNn nn) s = .next t ∧ ExecKeeps (.ldAIndNn nn) s t :=
  ⟨_, rfl, ExecKeeps.of _ s _ (keepsRest_of_mc _ _ rfl rfl rfl rfl rfl rfl rfl rfl rfl rfl rfl rfl rfl rfl rfl rfl)
    (sound_same rfl) ⟨Nat.le_of_ble_eq_true rfl, Nat.le_of_ble_eq_true rfl⟩ (fun e => by cases e) (.inl rfl) (.inl rfl)⟩

theorem exec_keeps_ldIndBcA (s : State) :
    ∃ t, exec .ldIndBcA s = .next t ∧ ExecKeeps .ldIndBcA s t :=
  ⟨_, rfl, ExecKeeps.of _ s _ ((s.memWrite_keepsRest _ _).trans (keepsRest_of_mc _ _ rfl rfl rfl rfl rfl rfl rfl rfl rfl rfl rfl rfl rfl rfl rfl rfl))
    (sound_write rfl) ⟨Nat.le_of_ble_eq_true rfl, Nat.le_of_ble_eq_true rfl⟩ (fun e => by cases e) (.inl rfl) (.inl rfl)⟩

theorem exec_keeps_ldIndDeA (s : State) :
    ∃ t, exec .ldIndDeA s = .next t ∧ ExecKeeps .ldIndDeA s t :=
  ⟨_, rfl, ExecKeeps.of _ s _ ((s.memWrite_keepsRest _ _).trans (keepsRest_of_mc _ _ rfl rfl rfl rfl rfl rfl rfl rfl rfl rfl rfl rfl rfl rfl rfl rfl))
    (sound_write rfl) ⟨Nat.le_of_ble_eq_true rfl, Nat.le_of_ble_eq_true rfl⟩ (fun e => by cases e) (.inl rfl) (.inl rfl)⟩

theorem exec_keeps_ldIndNnA (nn : Word) (s : State) :
    ∃ t, exec (.ldIndNnA nn) s = .next t ∧ ExecKeeps (.ldIndNnA nn) s t :=
  ⟨_, rfl, ExecKeeps.of _ s _ ((s.memWrite_keepsRest _ _).trans (keepsRest_of_mc _ _ rfl rfl rfl rfl rfl rfl rfl rfl rfl rfl rfl rfl rfl rfl rfl rfl))
    (sound_write rfl) ⟨Nat.le_of_ble_eq_true rfl, Nat.le_of_ble_eq_true rfl⟩ (fun e => by cases e) (.inl rfl) (.inl rfl)⟩

theorem exec_keeps_ldRIdx (r : Reg8) (xy : IdxReg) (d : Byte) (s : State) :
    ∃ t, exec (.ldRIdx r xy d) s = .next t ∧ ExecKeeps (.ldRIdx r xy d) s t :=
  by
  refine ⟨_, rfl, ?_⟩
  cases r <;> exact ExecKeeps.of _ s _ (keepsRest_of_mc _ _ rfl rfl rfl rfl rfl rfl rfl rfl rfl rfl rfl rfl rfl rfl rfl rfl)
    (sound_same rfl) ⟨Nat.le_of_ble_eq_true rfl, Nat.le_of_ble_eq_true rfl⟩ (fun e => by cases e) (.inl rfl) (.inl rfl)

theorem exec_keeps_ldIdxR (xy : IdxReg) (d : Byte) (r : Reg8) (s : State) :
    ∃ t, exec (.ldIdxR xy d r) s = .next t ∧ ExecKeeps (.ldIdxR xy d r) s t :=
  ⟨_, rfl, ExecKeeps.of _ s _ ((s.memWrite_keepsRest _ _).trans (keepsRest_of_mc _ _ rfl rfl rfl rfl rfl rfl rfl rfl rfl rfl rfl rfl rfl rfl rfl rfl))
    (sound_write rfl) ⟨Nat.le_of_ble_eq_true rfl, Nat.le_of_ble_eq_true rfl⟩ (fun e => by cases e) (.inl rfl) (.inl rfl)⟩

theorem exec_keeps_ldIdxN (xy : IdxReg) (d : Byte) (n : Byte) (s : State) :
    ∃ t, exec (.ldIdxN xy d n) s = .next t ∧ ExecKeeps (.ldIdxN xy d n) s t :=
  ⟨_, rfl, ExecKeeps.of _ s _ ((s.memWrite_keepsRest _ _).trans (keepsRest_of_mc _ _ rfl rfl rfl rfl rfl rfl rfl rfl rfl rfl rfl rfl rfl rfl rfl rfl))
    (sound_write rfl) ⟨Nat.le_of_ble_eq_true rfl, Nat.le_of_ble_eq_true rfl⟩ (fun e => by cases e) (.inl rfl) (.inl rfl)⟩

theorem exec_keeps_ldAI (s : State) :
    ∃ t, exec .ldAI s = .next t ∧ ExecKeeps .ldAI s t :=
  ⟨_, rfl, ExecKeeps.of _ s _ (keepsRest_of_mc _ _ rfl rfl rfl rfl rfl rfl rfl rfl rfl rfl rfl rfl rfl rfl rfl rfl)
    (sound_same rfl) ⟨Nat.le_of_ble_eq_true rfl, Nat.le_of_ble_eq_true rfl⟩ (fun e => by cases e) (.inl rfl) (.inl rfl)⟩

theorem exec_keeps_ldAR (s : State) :
    ∃ t, exec .ldAR s = .next t ∧ ExecKeeps .ldAR s t :=
  ⟨_, rfl, ExecKeeps.of _ s _ (keepsRest_of_mc _ _ rfl rfl rfl rfl rfl rfl rfl rfl rfl rfl rfl rfl rfl rfl rfl rfl)
    (sound_same rfl) ⟨Nat.le_of_ble_eq_true rfl, Nat.le_of_ble_eq_true rfl⟩ (fun e => by cases e) (.inl rfl) (.inl rfl)⟩

theorem exec_keeps_ldIA (s : State) :
    ∃ t, exec .ldIA s = .next t ∧ ExecKeeps .ldIA s t :=
  ⟨_, rfl, ⟨rfl, rfl, rfl, rfl, rfl, rfl, rfl, rfl⟩, sound_same rfl, Nat.le_of_ble_eq_true rfl, Nat.le_of_ble_eq_true rfl, .inl rfl, .inr rfl, .inl rfl, .inl rfl, .inl rfl, .inl ⟨rfl, rfl⟩,
    fun e => (by cases e), fun _ => rfl, .inl rfl, .inl rfl⟩

theorem exec_keeps_ldRA (s : State) :
    ∃ t, exec .ldRA s = .next t ∧ ExecKeeps .ldRA s t :=
  ⟨_, rfl, ⟨rfl, rfl, rfl, rfl, rfl, rfl, rfl, rfl⟩, sound_same rfl, Nat.le_of_ble_eq_true rfl, Nat.le_of_ble_eq_true rfl, .inl rfl, .inl rfl, .inr ⟨rfl, rfl⟩, .inl rfl, .inl rfl,
    .inl ⟨rfl, rfl⟩, fun e => (by cases e), fun _ => rfl, .inl rfl, .inl rfl⟩

theorem exec_keeps_ldDdNn (dd : Pair) (nn : Word) (s : State) :
    ∃ t, exec (.ldDdNn dd nn) s = .next t ∧ ExecKeeps (.ldDdNn dd nn) s t :=
  by
  refine ⟨_, rfl, ?_⟩
  cases dd <;> exact ExecKeeps.of _ s _ (keepsRest_of_mc _ _ rfl rfl rfl rfl rfl rfl rfl rfl rfl rfl rfl rfl rfl rfl rfl rfl)
    (sound_same rfl) ⟨Nat.le_of_ble_eq_true rfl, Nat.le_of_ble_eq_true rfl⟩ (fun e => by cases e) (.inl rfl) (.inl rfl)

theorem exec_keeps_ldXyNn (xy : IdxReg) (nn : Word) (s : State) :
    ∃ t, exec (.ldXyNn xy nn) s = .next t ∧ ExecKeeps (.ldXyNn xy nn) s t :=
  by
  refine ⟨_, rfl, ?_⟩
  cases xy <;> exact ExecKeeps.of _ s _ (keepsRest_of_mc _ _ rfl rfl rfl rfl rfl rfl rfl rfl rfl rfl rfl rfl rfl rfl rfl rfl)
    (sound_same rfl) ⟨Nat.le_of_ble_eq_true rfl, Nat.le_of_ble_eq_true rfl⟩ (fun e => by cases e) (by first | exact .inl rfl | exact .inr rfl)
    (by first | exact .inl rfl | exact .inr rfl)

theorem exec_keeps_ldHlIndNn (nn : Word) (s : State) :
    ∃ t, exec (.ldHlIndNn nn) s = .next t ∧ ExecKeeps (.ldHlIndNn nn) s t :=
  ⟨_, rfl, ExecKeeps.of _ s _ (keepsRest_of_mc _ _ rfl rfl rfl rfl rfl rfl rfl rfl rfl rfl rfl rfl rfl rfl rfl rfl)
    (sound_same rfl) ⟨Nat.le_of_ble_eq_true rfl, Nat.le_of_ble_eq_true rfl⟩ (fun e => by cases e) (.inl rfl) (.inl rfl)⟩

theorem exec_keeps_ldDdIndNn (dd : Pair) (nn : Word) (s : State) :
    ∃ t, exec (.ldDdIndNn dd nn) s = .next t ∧ ExecKeeps (.ldDdIndNn dd nn) s t :=
  by
  refine ⟨_, rfl, ?_⟩
  cases dd <;> exact ExecKeeps.of _ s _ (keepsRest_of_mc _ _ rfl rfl rfl rfl rfl rfl rfl rfl rfl rfl rfl rfl rfl rfl rfl rfl)
    (sound_same rfl) ⟨Nat.le_of_ble_eq_true rfl, Nat.le_of_ble_eq_true rfl⟩ (fun e => by cases e) (.inl rfl) (.inl rfl)

theorem exec_keeps_ldXyIndNn (xy : IdxReg) (nn : Word) (s : State) :
    ∃ t, exec (.ldXyIndNn xy nn) s = .next t ∧ ExecKeeps (.ldXyIndNn xy nn) s t :=
  by
  refine ⟨_, rfl, ?_⟩
  cases xy <;> exact ExecKeeps.of _ s _ (keepsRest_of_mc _ _ rfl rfl rfl rfl rfl rfl rfl rfl rfl rfl rfl rfl rfl rfl rfl rfl)
    (sound_same rfl) ⟨Nat.le_of_ble_eq_true rfl, Nat.le_of_ble_eq_true rfl⟩ (fun e => by cases e) (by first | exact .inl rfl | exact .inr rfl)
    (by first | exact .inl rfl | exact .inr rfl)

theorem exec_keeps_ldIndNnHl (nn : Word) (s : State) :
    ∃ t, exec (.ldIndNnHl nn) s = .next t ∧ ExecKeeps (.ldIndNnHl nn) s t :=
  ⟨_, rfl, ExecKeeps.of _ s _ (((s.memWrite_keepsRest _ _).trans (State.memWrite_keepsRest _ _ _)).trans
    (keepsRest_of_mc _ _ rfl rfl rfl rfl rfl rfl rfl rfl rfl rfl rfl rfl rfl rfl rfl rfl))
    (sound_write2 rfl) ⟨Nat.le_of_ble_eq_true rfl, Nat.le_of_ble_eq_true rfl⟩ (fun e => by cases e) (.inl rfl) (.inl rfl)⟩

theorem exec_keeps_ldIndNnDd (nn : Word) (dd : Pair) (s : State) :
    ∃ t, exec (.ldIndNnDd nn dd) s = .next t ∧ ExecKeeps (.ldIndNnDd nn dd) s t :=
  ⟨_, rfl, ExecKeeps.of _ s _ (((s.memWrite_keepsRest _ _).trans (State.memWrite_keepsRest _ _ _)).trans
    (keepsRest_of_mc _ _ rfl rfl rfl rfl rfl rfl rfl rfl rfl rfl rfl rfl rfl rfl rfl rfl))
    (sound_write2 rfl) ⟨Nat.le_of_ble_eq_true rfl, Nat.le_of_ble_eq_true rfl⟩ (fun e => by cases e) (.inl rfl) (.inl rfl)⟩

theorem exec_keeps_ldIndNnXy (nn : Word) (xy : IdxReg) (s : State) :
    ∃ t, exec (.ldIndNnXy nn xy) s = .next t ∧ ExecKeeps (.ldIndNnXy nn xy) s t :=
  ⟨_, rfl, ExecKeeps.of _ s _ (((s.memWrite_keepsRest _ _).trans (State.memWrite_keepsRest _ _ _)).trans
    (keepsRest_of_mc _ _ rfl rfl rfl rfl rfl rfl rfl rfl rfl rfl rfl rfl rfl rfl rfl rfl))
    (sound_write2 rfl) ⟨Nat.le_of_ble_eq_true rfl, Nat.le_of_ble_eq_true rfl⟩ (fun e => by cases e) (.inl rfl) (.inl rfl)⟩

theorem exec_keeps_ldSpHl (s : State) :
    ∃ t, exec .ldSpHl s = .next t ∧ ExecKeeps .ldSpHl s t :=
  ⟨_, rfl, ExecKeeps.of _ s _ (keepsRest_of_mc _ _ rfl rfl rfl rfl rfl rfl rfl rfl rfl rfl rfl rfl rfl rfl rfl rfl)
    (sound_same rfl) ⟨Nat.le_of_ble_eq_true rfl, Nat.le_of_ble_eq_true rfl⟩ (fun e => by cases e) (.inl rfl) (.inl rfl)⟩

theorem exec_keeps_ldSpXy (xy : IdxReg) (s : State) :
    ∃ t, exec (.ldSpXy xy) s = .next t ∧ ExecKeeps (.ldSpXy xy) s t :=
  ⟨_, rfl, ExecKeeps.of _ s _ (keepsRest_of_mc _ _ rfl rfl rfl rfl rfl rfl rfl rfl rfl rfl rfl rfl rfl rfl rfl rfl)
    (sound_same rfl) ⟨Nat.le_of_ble_eq_true rfl, Nat.le_of_ble_eq_true rfl⟩ (fun e => by cases e) (.inl rfl) (.inl rfl)⟩

theorem exec_keeps_pushQq (qq : StackPair) (s : State) :
    ∃ t, exec (.pushQq qq) s = .next t ∧ ExecKeeps (.pushQq qq) s t :=
  ⟨_, rfl, ExecKeeps.of _ s _ ((s.push16_keepsRest _).trans (keepsRest_of_mc _ _ rfl rfl rfl rfl rfl rfl rfl rfl rfl rfl rfl rfl rfl rfl rfl rfl))
    (sound_write2 rfl) ⟨Nat.le_of_ble_eq_true rfl, Nat.le_of_ble_eq_true rfl⟩ (fun e => by cases e) (.inl rfl) (.inl rfl)⟩

theorem exec_keeps_pushXy (xy : IdxReg) (s : State) :
    ∃ t, exec (.pushXy xy) s = .next t ∧ ExecKeeps (.pushXy xy) s t :=
  ⟨_, rfl, ExecKeeps.of _ s _ ((s.push16_keepsRest _).trans (keepsRest_of_mc _ _ rfl rfl rfl rfl rfl rfl rfl rfl rfl rfl rfl rfl rfl rfl rfl rfl))
    (sound_write2 rfl) ⟨Nat.le_of_ble_eq_true rfl, Nat.le_of_ble_eq_true rfl⟩ (fun e => by cases e) (.inl rfl) (.inl rfl)⟩

theorem exec_keeps_popQq (qq : StackPair) (s : State) :
    ∃ t, exec (.popQq qq) s = .next t ∧ ExecKeeps (.popQq qq) s t :=
  by
  refine ⟨_, rfl, ?_⟩
  cases qq <;> exact ExecKeeps.of _ s _ (keepsRest_of_mc _ _ rfl rfl rfl rfl rfl rfl rfl rfl rfl rfl rfl rfl rfl rfl rfl rfl)
    (sound_same rfl) ⟨Nat.le_of_ble_eq_true rfl, Nat.le_of_ble_eq_true rfl⟩ (fun e => by cases e) (.inl rfl) (.inl rfl)

theorem exec_keeps_popXy (xy : IdxReg) (s : State) :
    ∃ t, exec (.popXy xy) s = .next t ∧ ExecKeeps (.popXy xy) s t :=
  by
  refine ⟨_, rfl, ?_⟩
  cases xy <;> exact ExecKeeps.of _ s _ (keepsRest_of_mc _ _ rfl rfl rfl rfl rfl rfl rfl rfl rfl rfl rfl rfl rfl rfl rfl rfl)
    (sound_same rfl) ⟨Nat.le_of_ble_eq_true rfl, Nat.le_of_ble_eq_true rfl⟩ (fun e => by cases e) (by first | exact .inl rfl | exact .inr rfl)
    (by first | exact .inl rfl | exact .inr rfl)

theorem exec_keeps_exDeHl (s : State) :
    ∃ t, exec .exDeHl s = .next t ∧ ExecKeeps .exDeHl s t :=
  ⟨_, rfl, ExecKeeps.of _ s _ (keepsRest_of_mc _ _ rfl rfl rfl rfl rfl rfl rfl rfl rfl rfl rfl rfl rfl rfl rfl rfl)
    (sound_same rfl) ⟨Nat.le_of_ble_eq_true rfl, Nat.le_of_ble_eq_true rfl⟩ (fun e => by cases e) (.inl rfl) (.inl rfl)⟩

theorem exec_keeps_exAfAf (s : State) :
    ∃ t, exec .exAfAf s = .next t ∧ ExecKeeps .exAfAf s t :=
  ⟨_, rfl, ⟨rfl, rfl, rfl, rfl, rfl, rfl, rfl, rfl⟩, sound_same rfl, Nat.le_of_ble_eq_true rfl, Nat.le_of_ble_eq_true rfl, .inr (.inl rfl), .inl rfl, .inl rfl, .inl rfl, .inl rfl, .inl ⟨rfl, rfl⟩,
    fun e => (by cases e), fun _ => rfl, .inl rfl, .inl rfl⟩

theorem exec_keeps_exx (s : State) :
    ∃ t, exec .exx s = .next t ∧ ExecKeeps .exx s t :=
  ⟨_, rfl, ⟨rfl, rfl, rfl, rfl, rfl, rfl, rfl, rfl⟩, sound_same rfl, Nat.le_of_ble_eq_true rfl, Nat.le_of_ble_eq_true rfl, .inr (.inr rfl), .inl rfl, .inl rfl, .inl rfl, .inl rfl, .inl ⟨rfl, rfl⟩,
    fun e => (by cases e), fun _ => rfl, .inl rfl, .inl rfl⟩

theorem exec_keeps_exIndSpHl (s : State) :
    ∃ t, exec .exIndSpHl s = .next t ∧ ExecKeeps .exIndSpHl s t :=
  ⟨_, rfl, ExecKeeps.of _ s _ (((s.memWrite_keepsRest _ _).trans (State.memWrite_keepsRest _ _ _)).trans
    (keepsRest_of_mc _ _ rfl rfl rfl rfl rfl rfl rfl rfl rfl rfl rfl rfl rfl rfl rfl rfl))
    (sound_write2 rfl) ⟨Nat.le_of_ble_eq_true rfl, Nat.le_of_ble_eq_true rfl⟩ (fun e => by cases e) (.inl rfl) (.inl rfl)⟩

theorem exec_keeps_exIndSpXy (xy : IdxReg) (s : State) :
    ∃ t, exec (.exIndSpXy xy) s = .next t ∧ ExecKeeps (.exIndSpXy xy) s t :=
  by
  refine ⟨_, rfl, ?_⟩
  cases xy <;> exact ExecKeeps.of _ s _ (((s.memWrite_keepsRest _ _).trans (State.memWrite_keepsRest _ _ _)).trans
    (keepsRest_of_mc _ _ rfl rfl rfl rfl rfl rfl rfl rfl rfl rfl rfl rfl rfl rfl rfl rfl))
    (sound_write2 rfl) ⟨Nat.le_of_ble_eq_true rfl, Nat.le_of_ble_eq_true rfl⟩ (fun e => by cases e) (by first | exact .inl rfl | exact .inr rfl)
    (by first | exact .inl rfl | exact .inr rfl)

theorem exec_keeps_ldi (s : State) :
    ∃ t, exec .ldi s = .next t ∧ ExecKeeps .ldi s t :=
  ⟨_, rfl, ExecKeeps.ofCopy _ s _ _ _ ⟨Nat.le_of_ble_eq_true rfl, Nat.le_of_ble_eq_true rfl⟩
    (fun e => by cases e)⟩

theorem exec_keeps_ldir (s : State) :
    ∃ t, exec .ldir s = .next t ∧ ExecKeeps .ldir s t :=
  by
  refine ⟨_, rfl, ?_⟩
  unfold State.endIteration
  split
  · exact ExecKeeps.ofCopy _ s _ _ _ ⟨Nat.le_of_ble_eq_true rfl, Nat.le_of_ble_eq_true rfl⟩ (fun e => by cases e)
  · exact ExecKeeps.ofCopy _ s _ _ _ ⟨Nat.le_of_ble_eq_true rfl, Nat.le_of_ble_eq_true rfl⟩ (fun e => by cases e)

theorem exec_keeps_ldd (s : State) :
    ∃ t, exec .ldd s = .next t ∧ ExecKeeps .ldd s t :=
  ⟨_, rfl, ExecKeeps.ofCopy _ s _ _ _ ⟨Nat.le_of_ble_eq_true rfl, Nat.le_of_ble_eq_true rfl⟩
    (fun e => by cases e)⟩

theorem exec_keeps_lddr (s : State) :
    ∃ t, exec .lddr s = .next t ∧ ExecKeeps .lddr s t :=
  by
  refine ⟨_, rfl, ?_⟩
  unfold State.endIteration
  split
  · exact ExecKeeps.ofCopy _ s _ _ _ ⟨Nat.le_of_ble_eq_true rfl, Nat.le_of_ble_eq_true rfl⟩ (fun e => by cases e)
  · exact ExecKeeps.ofCopy _ s _ _ _ ⟨Nat.le_of_ble_eq_true rfl, Nat.le_of_ble_eq_true rfl⟩ (fun e => by cases e)

theorem exec_keeps_cpi (s : State) :
    ∃ t, exec .cpi s = .next t ∧ ExecKeeps .cpi s t :=
  ⟨_, rfl, ExecKeeps.ofSearch _ s _ _ _ ⟨Nat.le_of_ble_eq_true rfl, Nat.le_of_ble_eq_true rfl⟩
    (fun e => by cases e)⟩

theorem exec_keeps_cpir (s : State) :
    ∃ t, exec .cpir s = .next t ∧ ExecKeeps .cpir s t :=
  by
  refine ⟨_, rfl, ?_⟩
  unfold State.endIteration
  split
  · exact ExecKeeps.ofSearch _ s _ _ _ ⟨Nat.le_of_ble_eq_true rfl, Nat.le_of_ble_eq_true rfl⟩ (fun e => by cases e)
  · exact ExecKeeps.ofSearch _ s _ _ _ ⟨Nat.le_of_ble_eq_true rfl, Nat.le_of_ble_eq_true rfl⟩ (fun e => by cases e)

theorem exec_keeps_cpd (s : State) :
    ∃ t, exec .cpd s = .next t ∧ ExecKeeps .cpd s t :=
  ⟨_, rfl, ExecKeeps.ofSearch _ s _ _ _ ⟨Nat.le_of_ble_eq_true rfl, Nat.le_of_ble_eq_true rfl⟩
    (fun e => by cases e)⟩

theorem exec_keeps_cpdr (s : State) :
    ∃ t, exec .cpdr s = .next t ∧ ExecKeeps .cpdr s t :=
  by
  refine ⟨_, rfl, ?_⟩
  unfold State.endIteration
  split
  · exact ExecKeeps.ofSearch _ s _ _ _ ⟨Nat.le_of_ble_eq_true rfl, Nat.le_of_ble_eq_true rfl⟩ (fun e => by cases e)
  · exact ExecKeeps.ofSearch _ s _ _ _ ⟨Nat.le_of_ble_eq_true rfl, Nat.le_of_ble_eq_true rfl⟩ (fun e => by cases e)

theorem exec_keeps_addAR (r : Reg8) (s : State) :
    ∃ t, exec (.addAR r) s = .next t ∧ ExecKeeps (.addAR r) s t :=
  ⟨_, rfl, ExecKeeps.of _ s _ (keepsRest_of_mc _ _ rfl rfl rfl rfl rfl rfl rfl rfl rfl rfl rfl rfl rfl rfl rfl rfl)
    (sound_same rfl) ⟨Nat.le_of_ble_eq_true rfl, Nat.le_of_ble_eq_true rfl⟩ (fun e => by cases e) (.inl rfl) (.inl rfl)⟩

theorem exec_keeps_addAN (n : Byte) (s : State) :
    ∃ t, exec (.addAN n) s = .next t ∧ ExecKeeps (.addAN n) s t :=
  ⟨_, rfl, ExecKeeps.of _ s _ (keepsRest_of_mc _ _ rfl rfl rfl rfl rfl rfl rfl rfl rfl rfl rfl rfl rfl rfl rfl rfl)
    (sound_same rfl) ⟨Nat.le_of_ble_eq_true rfl, Nat.le_of_ble_eq_true rfl⟩ (fun e => by cases e) (.inl rfl) (.inl rfl)⟩

theorem exec_keeps_addAIndHl (s : State) :
    ∃ t, exec .addAIndHl s = .next t ∧ ExecKeeps .addAIndHl s t :=
  ⟨_, rfl, ExecKeeps.of _ s _ (keepsRest_of_mc _ _ rfl rfl rfl rfl rfl rfl rfl rfl rfl rfl rfl rfl rfl rfl rfl rfl)
    (sound_same rfl) ⟨Nat.le_of_ble_eq_true rfl, Nat.le_of_ble_eq_true rfl⟩ (fun e => by cases e) (.inl rfl) (.inl rfl)⟩

theorem exec_keeps_addAIdx (xy : IdxReg) (d : Byte) (s : State) :
    ∃ t, exec (.addAIdx xy d) s = .next t ∧ ExecKeeps (.addAIdx xy d) s t :=
  ⟨_, rfl, ExecKeeps.of _ s _ (keepsRest_of_mc _ _ rfl rfl rfl rfl rfl rfl rfl rfl rfl rfl rfl rfl rfl rfl rfl rfl)
    (sound_same rfl) ⟨Nat.le_of_ble_eq_true rfl, Nat.le_of_ble_eq_true rfl⟩ (fun e => by cases e) (.inl rfl) (.inl rfl)⟩

theorem exec_keeps_adcAR (r : Reg8) (s : State) :
    ∃ t, exec (.adcAR r) s = .next t ∧ ExecKeeps (.adcAR r) s t :=
  ⟨_, rfl, ExecKeeps.of _ s _ (keepsRest_of_mc _ _ rfl rfl rfl rfl rfl rfl rfl rfl rfl rfl rfl rfl rfl rfl rfl rfl)
    (sound_same rfl) ⟨Nat.le_of_ble_eq_true rfl, Nat.le_of_ble_eq_true rfl⟩ (fun e => by cases e) (.inl rfl) (.inl rfl)⟩

theorem exec_keeps_adcAN (n : Byte) (s : State) :
    ∃ t, exec (.adcAN n) s = .next t ∧ ExecKeeps (.adcAN n) s t :=
  ⟨_, rfl, ExecKeeps.of _ s _ (keepsRest_of_mc _ _ rfl rfl rfl rfl rfl rfl rfl rfl rfl rfl rfl rfl rfl rfl rfl rfl)
    (sound_same rfl) ⟨Nat.le_of_ble_eq_true rfl, Nat.le_of_ble_eq_true rfl⟩ (fun e => by cases e) (.inl rfl) (.inl rfl)⟩

theorem exec_keeps_adcAIndHl (s : State) :
    ∃ t, exec .adcAIndHl s = .next t ∧ ExecKeeps .adcAIndHl s t :=
  ⟨_, rfl, ExecKeeps.of _ s _ (keepsRest_of_mc _ _ rfl rfl rfl rfl rfl rfl rfl rfl rfl rfl rfl rfl rfl rfl rfl rfl)
    (sound_same rfl) ⟨Nat.le_of_ble_eq_true rfl, Nat.le_of_ble_eq_true rfl⟩ (fun e => by cases e) (.inl rfl) (.inl rfl)⟩

theorem exec_keeps_adcAIdx (xy : IdxReg) (d : Byte) (s : State) :
    ∃ t, exec (.adcAIdx xy d) s = .next t ∧ ExecKeeps (.adcAIdx xy d) s t :=
  ⟨_, rfl, ExecKeeps.of _ s _ (keepsRest_of_mc _ _ rfl rfl rfl rfl rfl rfl rfl rfl rfl rfl rfl rfl rfl rfl rfl rfl)
    (sound_same rfl) ⟨Nat.le_of_ble_eq_true rfl, Nat.le_of_ble_eq_true rfl⟩ (fun e => by cases e) (.inl rfl) (.inl rfl)⟩

theorem exec_keeps_subR (r : Reg8) (s : State) :
    ∃ t, exec (.subR r) s = .next t ∧ ExecKeeps (.subR r) s t :=
  ⟨_, rfl, ExecKeeps.of _ s _ (keepsRest_of_mc _ _ rfl rfl rfl rfl rfl rfl rfl rfl rfl rfl rfl rfl rfl rfl rfl rfl)
    (sound_same rfl) ⟨Nat.le_of_ble_eq_true rfl, Nat.le_of_ble_eq_true rfl⟩ (fun e => by cases e) (.inl rfl) (.inl rfl)⟩

theorem exec_keeps_subN (n : Byte) (s : State) :
    ∃ t, exec (.subN n) s = .next t ∧ ExecKeeps (.subN n) s t :=
  ⟨_, rfl, ExecKeeps.of _ s _ (keepsRest_of_mc _ _ rfl rfl rfl rfl rfl rfl rfl rfl rfl rfl rfl rfl rfl rfl rfl rfl)
    (sound_same rfl) ⟨Nat.le_of_ble_eq_true rfl, Nat.le_of_ble_eq_true rfl⟩ (fun e => by cases e) (.inl rfl) (.inl rfl)⟩

theorem exec_keeps_subIndHl (s : State) :
    ∃ t, exec .subIndHl s = .next t ∧ ExecKeeps .subIndHl s t :=
  ⟨_, rfl, ExecKeeps.of _ s _ (keepsRest_of_mc _ _ rfl rfl rfl rfl rfl rfl rfl rfl rfl rfl rfl rfl rfl rfl rfl rfl)
    (sound_same rfl) ⟨Nat.le_of_ble_eq_true rfl, Nat.le_of_ble_eq_true rfl⟩ (fun e => by cases e) (.inl rfl) (.inl rfl)⟩

theorem exec_keeps_subIdx (xy : IdxReg) (d : Byte) (s : State) :
    ∃ t, exec (.subIdx xy d) s = .next t ∧ ExecKeeps (.subIdx xy d) s t :=
  ⟨_, rfl, ExecKeeps.of _ s _ (keepsRest_of_mc _ _ rfl rfl rfl rfl rfl rfl rfl rfl rfl rfl rfl rfl rfl rfl rfl rfl)
    (sound_same rfl) ⟨Nat.le_of_ble_eq_true rfl, Nat.le_of_ble_eq_true rfl⟩ (fun e => by cases e) (.inl rfl) (.inl rfl)⟩

theorem exec_keeps_sbcAR (r : Reg8) (s : State) :
    ∃ t, exec (.sbcAR r) s = .next t ∧ ExecKeeps (.sbcAR r) s t :=
  ⟨_, rfl, ExecKeeps.of _ s _ (keepsRest_of_mc _ _ rfl rfl rfl rfl rfl rfl rfl rfl rfl rfl rfl rfl rfl rfl rfl rfl)
    (sound_same rfl) ⟨Nat.le_of_ble_eq_true rfl, Nat.le_of_ble_eq_true rfl⟩ (fun e => by cases e) (.inl rfl) (.inl rfl)⟩

theorem exec_keeps_sbcAN (n : Byte) (s : State) :
    ∃ t, exec (.sbcAN n) s = .next t ∧ ExecKeeps (.sbcAN n) s t :=
  ⟨_, rfl, ExecKeeps.of _ s _ (keepsRest_of_mc _ _ rfl rfl rfl rfl rfl rfl rfl rfl rfl rfl rfl rfl rfl rfl rfl rfl)
    (sound_same rfl) ⟨Nat.le_of_ble_eq_true rfl, Nat.le_of_ble_eq_true rfl⟩ (fun e => by cases e) (.inl rfl) (.inl rfl)⟩

theorem exec_keeps_sbcAIndHl (s : State) :
    ∃ t, exec .sbcAIndHl s = .next t ∧ ExecKeeps .sbcAIndHl s t :=
  ⟨_, rfl, ExecKeeps.of _ s _ (keepsRest_of_mc _ _ rfl rfl rfl rfl rfl rfl rfl rfl rfl rfl rfl rfl rfl rfl rfl rfl)
    (sound_same rfl) ⟨Nat.le_of_ble_eq_true rfl, Nat.le_of_ble_eq_true rfl⟩ (fun e => by cases e) (.inl rfl) (.inl rfl)⟩

theorem exec_keeps_sbcAIdx (xy : IdxReg) (d : Byte) (s : State) :
    ∃ t, exec (.sbcAIdx xy d) s = .next t ∧ ExecKeeps (.sbcAIdx xy d) s t :=
  ⟨_, rfl, ExecKeeps.of _ s _ (keepsRest_of_mc _ _ rfl rfl rfl rfl rfl rfl rfl rfl rfl rfl rfl rfl rfl rfl rfl rfl)
    (sound_same rfl) ⟨Nat.le_of_ble_eq_true rfl, Nat.le_of_ble_eq_true rfl⟩ (fun e => by cases e) (.inl rfl) (.inl rfl)⟩

theorem exec_keeps_andR (r : Reg8) (s : State) :
    ∃ t, exec (.andR r) s = .next t ∧ ExecKeeps (.andR r) s t :=
  ⟨_, rfl, ExecKeeps.of _ s _ (keepsRest_of_mc _ _ rfl rfl rfl rfl rfl rfl rfl rfl rfl rfl rfl rfl rfl rfl rfl rfl)
    (sound_same rfl) ⟨Nat.le_of_ble_eq_true rfl, Nat.le_of_ble_eq_true rfl⟩ (fun e => by cases e) (.inl rfl) (.inl rfl)⟩

theorem exec_keeps_andN (n : Byte) (s : State) :
    ∃ t, exec (.andN n) s = .next t ∧ ExecKeeps (.andN n) s t :=
  ⟨_, rfl, ExecKeeps.of _ s _ (keepsRest_of_mc _ _ rfl rfl rfl rfl rfl rfl rfl rfl rfl rfl rfl rfl rfl rfl rfl rfl)
    (sound_same rfl) ⟨Nat.le_of_ble_eq_true rfl, Nat.le_of_ble_eq_true rfl⟩ (fun e => by cases e) (.inl rfl) (.inl rfl)⟩

theorem exec_keeps_andIndHl (s : State) :
    ∃ t, exec .andIndHl s = .next t ∧ ExecKeeps .andIndHl s t :=
  ⟨_, rfl, ExecKeeps.of _ s _ (keepsRest_of_mc _ _ rfl rfl rfl rfl rfl rfl rfl rfl rfl rfl rfl rfl rfl rfl rfl rfl)
    (sound_same rfl) ⟨Nat.le_of_ble_eq_true rfl, Nat.le_of_ble_eq_true rfl⟩ (fun e => by cases e) (.inl rfl) (.inl rfl)⟩

theorem exec_keeps_andIdx (xy : IdxReg) (d : Byte) (s : State) :
    ∃ t, exec (.andIdx xy d) s = .next t ∧ ExecKeeps (.andIdx xy d) s t :=
  ⟨_, rfl, ExecKeeps.of _ s _ (keepsRest_of_mc _ _ rfl rfl rfl rfl rfl rfl rfl rfl rfl rfl rfl rfl rfl rfl rfl rfl)
    (sound_same rfl) ⟨Nat.le_of_ble_eq_true rfl, Nat.le_of_ble_eq_true rfl⟩ (fun e => by cases e) (.inl rfl) (.inl rfl)⟩

theorem exec_keeps_xorR (r : Reg8) (s : State) :
    ∃ t, exec (.xorR r) s = .next t ∧ ExecKeeps (.xorR r) s t :=
  ⟨_, rfl, ExecKeeps.of _ s _ (keepsRest_of_mc _ _ rfl rfl rfl rfl rfl rfl rfl rfl rfl rfl rfl rfl rfl rfl rfl rfl)
    (sound_same rfl) ⟨Nat.le_of_ble_eq_true rfl, Nat.le_of_ble_eq_true rfl⟩ (fun e => by cases e) (.inl rfl) (.inl rfl)⟩

theorem exec_keeps_xorN (n : Byte) (s : State) :
    ∃ t, exec (.xorN n) s = .next t ∧ ExecKeeps (.xorN n) s t :=
  ⟨_, rfl, ExecKeeps.of _ s _ (keepsRest_of_mc _ _ rfl rfl rfl rfl rfl rfl rfl rfl rfl rfl rfl rfl rfl rfl rfl rfl)
    (sound_same rfl) ⟨Nat.le_of_ble_eq_true rfl, Nat.le_of_ble_eq_true rfl⟩ (fun e => by cases e) (.inl rfl) (.inl rfl)⟩

theorem exec_keeps_xorIndHl (s : State) :
    ∃ t, exec .xorIndHl s = .next t ∧ ExecKeeps .xorIndHl s t :=
  ⟨_, rfl, ExecKeeps.of _ s _ (keepsRest_of_mc _ _ rfl rfl rfl rfl rfl rfl rfl rfl rfl rfl rfl rfl rfl rfl rfl rfl)
    (sound_same rfl) ⟨Nat.le_of_ble_eq_true rfl, Nat.le_of_ble_eq_true rfl⟩ (fun e => by cases e) (.inl rfl) (.inl rfl)⟩

theorem exec_keeps_xorIdx (xy : IdxReg) (d : Byte) (s : State) :
    ∃ t, exec (.xorIdx xy d) s = .next t ∧ ExecKeeps (.xorIdx xy d) s t :=
  ⟨_, rfl, ExecKeeps.of _ s _ (keepsRest_of_mc _ _ rfl rfl rfl rfl rfl rfl rfl rfl rfl rfl rfl rfl rfl rfl rfl rfl)
    (sound_same rfl) ⟨Nat.le_of_ble_eq_true rfl, Nat.le_of_ble_eq_true rfl⟩ (fun e => by cases e) (.inl rfl) (.inl rfl)⟩

theorem exec_keeps_orR (r : Reg8) (s : State) :
    ∃ t, exec (.orR r) s = .next t ∧ ExecKeeps (.orR r) s t :=
  ⟨_, rfl, ExecKeeps.of _ s _ (keepsRest_of_mc _ _ rfl rfl rfl rfl rfl rfl rfl rfl rfl rfl rfl rfl rfl rfl rfl rfl)
    (sound_same rfl) ⟨Nat.le_of_ble_eq_true rfl, Nat.le_of_ble_eq_true rfl⟩ (fun e => by cases e) (.inl rfl) (.inl rfl)⟩

theorem exec_keeps_orN (n : Byte) (s : State) :
    ∃ t, exec (.orN n) s = .next t ∧ ExecKeeps (.orN n) s t :=
  ⟨_, rfl, ExecKeeps.of _ s _ (keepsRest_of_mc _ _ rfl rfl rfl rfl rfl rfl rfl rfl rfl rfl rfl rfl rfl rfl rfl rfl)
    (sound_same rfl) ⟨Nat.le_of_ble_eq_true rfl, Nat.le_of_ble_eq_true rfl⟩ (fun e => by cases e) (.inl rfl) (.inl rfl)⟩

theorem exec_keeps_orIndHl (s : State) :
    ∃ t, exec .orIndHl s = .next t ∧ ExecKeeps .orIndHl s t :=
  ⟨_, rfl, ExecKeeps.of _ s _ (keepsRest_of_mc _ _ rfl rfl rfl rfl rfl rfl rfl rfl rfl rfl rfl rfl rfl rfl rfl rfl)
    (sound_same rfl) ⟨Nat.le_of_ble_eq_true rfl, Nat.le_of_ble_eq_true rfl⟩ (fun e => by cases e) (.inl rfl) (.inl rfl)⟩

theorem exec_keeps_orIdx (xy : IdxReg) (d : Byte) (s : State) :
    ∃ t, exec (.orIdx xy d) s = .next t ∧ ExecKeeps (.orIdx xy d) s t :=
  ⟨_, rfl, ExecKeeps.of _ s _ (keepsRest_of_mc _ _ rfl rfl rfl rfl rfl rfl rfl rfl rfl rfl rfl rfl rfl rfl rfl rfl)
    (sound_same rfl) ⟨Nat.le_of_ble_eq_true rfl, Nat.le_of_ble_eq_true rfl⟩ (fun e => by cases e) (.inl rfl) (.inl rfl)⟩

theorem exec_keeps_cpR (r : Reg8) (s : State) :
    ∃ t, exec (.cpR r) s = .next t ∧ ExecKeeps (.cpR r) s t :=
  ⟨_, rfl, ExecKeeps.of _ s _ (keepsRest_of_mc _ _ rfl rfl rfl rfl rfl rfl rfl rfl rfl rfl rfl rfl rfl rfl rfl rfl)
    (sound_same rfl) ⟨Nat.le_of_ble_eq_true rfl, Nat.le_of_ble_eq_true rfl⟩ (fun e => by cases e) (.inl rfl) (.inl rfl)⟩

theorem exec_keeps_cpN (n : Byte) (s : State) :
    ∃ t, exec (.cpN n) s = .next t ∧ ExecKeeps (.cpN n) s t :=
  ⟨_, rfl, ExecKeeps.of _ s _ (keepsRest_of_mc _ _ rfl rfl rfl rfl rfl rfl rfl rfl rfl rfl rfl rfl rfl rfl rfl rfl)
    (sound_same rfl) ⟨Nat.le_of_ble_eq_true rfl, Nat.le_of_ble_eq_true rfl⟩ (fun e => by cases e) (.inl rfl) (.inl rfl)⟩

theorem exec_keeps_cpIndHl (s : State) :
    ∃ t, exec .cpIndHl s = .next t ∧ ExecKeeps .cpIndHl s t :=
  ⟨_, rfl, ExecKeeps.of _ s _ (keepsRest_of_mc _ _ rfl rfl rfl rfl rfl rfl rfl rfl rfl rfl rfl rfl rfl rfl rfl rfl)
    (sound_same rfl) ⟨Nat.le_of_ble_eq_true rfl, Nat.le_of_ble_eq_true rfl⟩ (fun e => by cases e) (.inl rfl) (.inl rfl)⟩

theorem exec_keeps_cpIdx (xy : IdxReg) (d : Byte) (s : State) :
    ∃ t, exec (.cpIdx xy d) s = .next t ∧ ExecKeeps (.cpIdx xy d) s t :=
  ⟨_, rfl, ExecKeeps.of _ s _ (keepsRest_of_mc _ _ rfl rfl rfl rfl rfl rfl rfl rfl rfl rfl rfl rfl rfl rfl rfl rfl)
    (sound_same rfl) ⟨Nat.le_of_ble_eq_true rfl, Nat.le_of_ble_eq_true rfl⟩ (fun e => by cases e) (.inl rfl) (.inl rfl)⟩

theorem exec_keeps_incR (r : Reg8) (s : State) :
    ∃ t, exec (.incR r) s = .next t ∧ ExecKeeps (.incR r) s t :=
  by
  refine ⟨_, rfl, ?_⟩
  cases r <;> exact ExecKeeps.of _ s _ (keepsRest_of_mc _ _ rfl rfl rfl rfl rfl rfl rfl rfl rfl rfl rfl rfl rfl rfl rfl rfl)
    (sound_same rfl) ⟨Nat.le_of_ble_eq_true rfl, Nat.le_of_ble_eq_true rfl⟩ (fun e => by cases e) (.inl rfl) (.inl rfl)

theorem exec_keeps_incIndHl (s : State) :
    ∃ t, exec .incIndHl s = .next t ∧ ExecKeeps .incIndHl s t :=
  ⟨_, rfl, ExecKeeps.of _ s _ ((s.memWrite_keepsRest _ _).trans (keepsRest_of_mc _ _ rfl rfl rfl rfl rfl rfl rfl rfl rfl rfl rfl rfl rfl rfl rfl rfl))
    (sound_write rfl) ⟨Nat.le_of_ble_eq_true rfl, Nat.le_of_ble_eq_true rfl⟩ (fun e => by cases e) (.inl rfl) (.inl rfl)⟩

theorem exec_keeps_incIdx (xy : IdxReg) (d : Byte) (s : State) :
    ∃ t, exec (.incIdx xy d) s = .next t ∧ ExecKeeps (.incIdx xy d) s t :=
  ⟨_, rfl, ExecKeeps.of _ s _ ((s.memWrite_keepsRest _ _).trans (keepsRest_of_mc _ _ rfl rfl rfl rfl rfl rfl rfl rfl rfl rfl rfl rfl rfl rfl rfl rfl))
    (sound_write rfl) ⟨Nat.le_of_ble_eq_true rfl, Nat.le_of_ble_eq_true rfl⟩ (fun e => by cases e) (.inl rfl) (.inl rfl)⟩

theorem exec_keeps_decR (r : Reg8) (s : State) :
    ∃ t, exec (.decR r) s = .next t ∧ ExecKeeps (.decR r) s t :=
  by
  refine ⟨_, rfl, ?_⟩
  cases r <;> exact ExecKeeps.of _ s _ (keepsRest_of_mc _ _ rfl rfl rfl rfl rfl rfl rfl rfl rfl rfl rfl rfl rfl rfl rfl rfl)
    (sound_same rfl) ⟨Nat.le_of_ble_eq_true rfl, Nat.le_of_ble_eq_true rfl⟩ (fun e => by cases e) (.inl rfl) (.inl rfl)

theorem exec_keeps_decIndHl (s : State) :
    ∃ t, exec .decIndHl s = .next t ∧ ExecKeeps .decIndHl s t :=
  ⟨_, rfl, ExecKeeps.of _ s _ ((s.memWrite_keepsRest _ _).trans (keepsRest_of_mc _ _ rfl rfl rfl rfl rfl rfl rfl rfl rfl rfl rfl rfl rfl rfl rfl rfl))
    (sound_write rfl) ⟨Nat.le_of_ble_eq_true rfl, Nat.le_of_ble_eq_true rfl⟩ (fun e => by cases e) (.inl rfl) (.inl rfl)⟩

theorem exec_keeps_decIdx (xy : IdxReg) (d : Byte) (s : State) :
    ∃ t, exec (.decIdx xy d) s = .next t ∧ ExecKeeps (.decIdx xy d) s t :=
  ⟨_, rfl, ExecKeeps.of _ s _ ((s.memWrite_keepsRest _ _).trans (keepsRest_of_mc _ _ rfl rfl rfl rfl rfl rfl rfl rfl rfl rfl rfl rfl rfl rfl rfl rfl))
    (sound_write rfl) ⟨Nat.le_of_ble_eq_true rfl, Nat.le_of_ble_eq_true rfl⟩ (fun e => by cases e) (.inl rfl) (.inl rfl)⟩

theorem exec_keeps_daa (s : State) :
    ∃ t, exec .daa s = .next t ∧ ExecKeeps .daa s t :=
  ⟨_, rfl, ExecKeeps.of _ s _ (keepsRest_of_mc _ _ rfl rfl rfl rfl rfl rfl rfl rfl rfl rfl rfl rfl rfl rfl rfl rfl)
    (sound_same rfl) ⟨Nat.le_of_ble_eq_true rfl, Nat.le_of_ble_eq_true rfl⟩ (fun e => by cases e) (.inl rfl) (.inl rfl)⟩

theorem exec_keeps_cpl (s : State) :
    ∃ t, exec .cpl s = .next t ∧ ExecKeeps .cpl s t :=
  ⟨_, rfl, ExecKeeps.of _ s _ (keepsRest_of_mc _ _ rfl rfl rfl rfl rfl rfl rfl rfl rfl rfl rfl rfl rfl rfl rfl rfl)
    (sound_same rfl) ⟨Nat.le_of_ble_eq_true rfl, Nat.le_of_ble_eq_true rfl⟩ (fun e => by cases e) (.inl rfl) (.inl rfl)⟩

theorem exec_keeps_neg (s : State) :
    ∃ t, exec .neg s = .next t ∧ ExecKeeps .neg s t :=
  ⟨_, rfl, ExecKeeps.of _ s _ (keepsRest_of_mc _ _ rfl rfl rfl rfl rfl rfl rfl rfl rfl rfl rfl rfl rfl rfl rfl rfl)
    (sound_same rfl) ⟨Nat.le_of_ble_eq_true rfl, Nat.le_of_ble_eq_true rfl⟩ (fun e => by cases e) (.inl rfl) (.inl rfl)⟩

theorem exec_keeps_ccf (s : State) :
    ∃ t, exec .ccf s = .next t ∧ ExecKeeps .ccf s t :=
  ⟨_, rfl, ExecKeeps.of _ s _ (keepsRest_of_mc _ _ rfl rfl rfl rfl rfl rfl rfl rfl rfl rfl rfl rfl rfl rfl rfl rfl)
    (sound_same rfl) ⟨Nat.le_of_ble_eq_true rfl, Nat.le_of_ble_eq_true rfl⟩ (fun e => by cases e) (.inl rfl) (.inl rfl)⟩

theorem exec_keeps_scf (s : State) :
    ∃ t, exec .scf s = .next t ∧ ExecKeeps .scf s t :=
  ⟨_, rfl, ExecKeeps.of _ s _ (keepsRest_of_mc _ _ rfl rfl rfl rfl rfl rfl rfl rfl rfl rfl rfl rfl rfl rfl rfl rfl)
    (sound_same rfl) ⟨Nat.le_of_ble_eq_true rfl, Nat.le_of_ble_eq_true rfl⟩ (fun e => by cases e) (.inl rfl) (.inl rfl)⟩

theorem exec_keeps_nop (s : State) :
    ∃ t, exec .nop s = .next t ∧ ExecKeeps .nop s t :=
  ⟨_, rfl, ExecKeeps.of _ s _ (keepsRest_of_mc _ _ rfl rfl rfl rfl rfl rfl rfl rfl rfl rfl rfl rfl rfl rfl rfl rfl)
    (sound_same rfl) ⟨Nat.le_of_ble_eq_true rfl, Nat.le_of_ble_eq_true rfl⟩ (fun e => by cases e) (.inl rfl) (.inl rfl)⟩

theorem exec_keeps_halt (s : State) :
    ∃ t, exec .halt s = .next t ∧ ExecKeeps .halt s t :=
  ⟨_, rfl, ⟨rfl, rfl, rfl, rfl, rfl, rfl, rfl, rfl⟩, sound_same rfl, Nat.le_of_ble_eq_true rfl, Nat.le_of_ble_eq_true rfl, .inl rfl, .inl rfl, .inl rfl, .inl rfl, .inr rfl, .inl ⟨rfl, rfl⟩,
    fun e => (by cases e), fun _ => rfl, .inl rfl, .inl rfl⟩

theorem exec_keeps_di (s : State) :
    ∃ t, exec .di s = .next t ∧ ExecKeeps .di s t :=
  ⟨_, rfl, ⟨rfl, rfl, rfl, rfl, rfl, rfl, rfl, rfl⟩, sound_same rfl, Nat.le_of_ble_eq_true rfl, Nat.le_of_ble_eq_true rfl, .inl rfl, .inl rfl, .inl rfl, .inl rfl, .inl rfl, .inr rfl,
    fun e => (by cases e), fun _ => rfl, .inl rfl, .inl rfl⟩

theorem exec_keeps_ei (s : State) :
    ∃ t, exec .ei s = .next t ∧ ExecKeeps .ei s t :=
  ⟨_, rfl, ⟨rfl, rfl, rfl, rfl, rfl, rfl, rfl, rfl⟩, sound_same rfl, Nat.le_of_ble_eq_true rfl, Nat.le_of_ble_eq_true rfl, .inl rfl, .inl rfl, .inl rfl, .inl rfl, .inl rfl, .inr rfl,
    fun _ => ⟨rfl, rfl⟩, fun e => absurd rfl e, .inl rfl, .inl rfl⟩

theorem exec_keeps_im0 (s : State) :
    ∃ t, exec .im0 s = .next t ∧ ExecKeeps .im0 s t :=
  ⟨_, rfl, ⟨rfl, rfl, rfl, rfl, rfl, rfl, rfl, rfl⟩, sound_same rfl, Nat.le_of_ble_eq_true rfl, Nat.le_of_ble_eq_true rfl, .inl rfl, .inl rfl, .inl rfl, .inr (.inl rfl), .inl rfl, .inl ⟨rfl, rfl⟩,
    fun e => (by cases e), fun _ => rfl, .inl rfl, .inl rfl⟩

theorem exec_keeps_im1 (s : State) :
    ∃ t, exec .im1 s = .next t ∧ ExecKeeps .im1 s t :=
  ⟨_, rfl, ⟨rfl, rfl, rfl, rfl, rfl, rfl, rfl, rfl⟩, sound_same rfl, Nat.le_of_ble_eq_true rfl, Nat.le_of_ble_eq_true rfl, .inl rfl, .inl rfl, .inl rfl, .inr (.inr (.inl rfl)), .inl rfl, .inl ⟨rfl, rfl⟩,
    fun e => (by cases e), fun _ => rfl, .inl rfl, .inl rfl⟩

theorem exec_keeps_im2 (s : State) :
    ∃ t, exec .im2 s = .next t ∧ ExecKeeps .im2 s t :=
  ⟨_, rfl, ⟨rfl, rfl, rfl, rfl, rfl, rfl, rfl, rfl⟩, sound_same rfl, Nat.le_of_ble_eq_true rfl, Nat.le_of_ble_eq_true rfl, .inl rfl, .inl rfl, .inl rfl, .inr (.inr (.inr rfl)), .inl rfl, .inl ⟨rfl, rfl⟩,
    fun e => (by cases e), fun _ => rfl, .inl rfl, .inl rfl⟩

theorem exec_keeps_addHlSs (ss : Pair) (s : State) :
    ∃ t, exec (.addHlSs ss) s = .next t ∧ ExecKeeps (.addHlSs ss) s t :=
  ⟨_, rfl, ExecKeeps.of _ s _ (keepsRest_of_mc _ _ rfl rfl rfl rfl rfl rfl rfl rfl rfl rfl rfl rfl rfl rfl rfl rfl)
    (sound_same rfl) ⟨Nat.le_of_ble_eq_true rfl, Nat.le_of_ble_eq_true rfl⟩ (fun e => by cases e) (.inl rfl) (.inl rfl)⟩

theorem exec_keeps_adcHlSs (ss : Pair) (s : State) :
    ∃ t, exec (.adcHlSs ss) s = .next t ∧ ExecKeeps (.adcHlSs ss) s t :=
  ⟨_, rfl, ExecKeeps.of _ s _ (keepsRest_of_mc _ _ rfl rfl rfl rfl rfl rfl rfl rfl rfl rfl rfl rfl rfl rfl rfl rfl)
    (sound_same rfl) ⟨Nat.le_of_ble_eq_true rfl, Nat.le_of_ble_eq_true rfl⟩ (fun e => by cases e) (.inl rfl) (.inl rfl)⟩

theorem exec_keeps_sbcHlSs (ss : Pair) (s : State) :
    ∃ t, exec (.sbcHlSs ss) s = .next t ∧ ExecKeeps (.sbcHlSs ss) s t :=
  ⟨_, rfl, ExecKeeps.of _ s _ (keepsRest_of_mc _ _ rfl rfl rfl rfl rfl rfl rfl rfl rfl rfl rfl rfl rfl rfl rfl rfl)
    (sound_same rfl) ⟨Nat.le_of_ble_eq_true rfl, Nat.le_of_ble_eq_true rfl⟩ (fun e => by cases e) (.inl rfl) (.inl rfl)⟩

theorem exec_keeps_addXyPp (xy : IdxReg) (pp : IdxPair) (s : State) :
    ∃ t, exec (.addXyPp xy pp) s = .next t ∧ ExecKeeps (.addXyPp xy pp) s t :=
  by
  refine ⟨_, rfl, ?_⟩
  cases xy <;> exact ExecKeeps.of _ s _ (keepsRest_of_mc _ _ rfl rfl rfl rfl rfl rfl rfl rfl rfl rfl rfl rfl rfl rfl rfl rfl)
    (sound_same rfl) ⟨Nat.le_of_ble_eq_true rfl, Nat.le_of_ble_eq_true rfl⟩ (fun e => by cases e) (by first | exact .inl rfl | exact .inr rfl)
    (by first | exact .inl rfl | exact .inr rfl)

theorem exec_keeps_incSs (ss : Pair) (s : State) :
    ∃ t, exec (.incSs ss) s = .next t ∧ ExecKeeps (.incSs ss) s t :=
  by
  refine ⟨_, rfl, ?_⟩
  cases ss <;> exact ExecKeeps.of _ s _ (keepsRest_of_mc _ _ rfl rfl rfl rfl rfl rfl rfl rfl rfl rfl rfl rfl rfl rfl rfl rfl)
    (sound_same rfl) ⟨Nat.le_of_ble_eq_true rfl, Nat.le_of_ble_eq_true rfl⟩ (fun e => by cases e) (.inl rfl) (.inl rfl)

theorem exec_keeps_incXy (xy : IdxReg) (s : State) :
    ∃ t, exec (.incXy xy) s = .next t ∧ ExecKeeps (.incXy xy) s t :=
  by
  refine ⟨_, rfl, ?_⟩
  cases xy <;> exact ExecKeeps.of _ s _ (keepsRest_of_mc _ _ rfl rfl rfl rfl rfl rfl rfl rfl rfl rfl rfl rfl rfl rfl rfl rfl)
    (sound_same rfl) ⟨Nat.le_of_ble_eq_true rfl, Nat.le_of_ble_eq_true rfl⟩ (fun e => by cases e) (by first | exact .inl rfl | exact .inr rfl)
    (by first | exact .inl rfl | exact .inr rfl)

theorem exec_keeps_decSs (ss : Pair) (s : State) :
    ∃ t, exec (.decSs ss) s = .next t ∧ ExecKeeps (.decSs ss) s t :=
  by
  refine ⟨_, rfl, ?_⟩
  cases ss <;> exact ExecKeeps.of _ s _ (keepsRest_of_mc _ _ rfl rfl rfl rfl rfl rfl rfl rfl rfl rfl rfl rfl rfl rfl rfl rfl)
    (sound_same rfl) ⟨Nat.le_of_ble_eq_true rfl, Nat.le_of_ble_eq_true rfl⟩ (fun e => by cases e) (.inl rfl) (.inl rfl)

theorem exec_keeps_decXy (xy : IdxReg) (s : State) :
    ∃ t, exec (.decXy xy) s = .next t ∧ ExecKeeps (.decXy xy) s t :=
  by
  refine ⟨_, rfl, ?_⟩
  cases xy <;> exact ExecKeeps.of _ s _ (keepsRest_of_mc _ _ rfl rfl rfl rfl rfl rfl rfl rfl rfl rfl rfl rfl rfl rfl rfl rfl)
    (sound_same rfl) ⟨Nat.le_of_ble_eq_true rfl, Nat.le_of_ble_eq_true rfl⟩ (fun e => by cases e) (by first | exact .inl rfl | exact .inr rfl)
    (by first | exact .inl rfl | exact .inr rfl)

theorem exec_keeps_rlca (s : State) :
    ∃ t, exec .rlca s = .next t ∧ ExecKeeps .rlca s t :=
  ⟨_, rfl, ExecKeeps.of _ s _ (keepsRest_of_mc _ _ rfl rfl rfl rfl rfl rfl rfl rfl rfl rfl rfl rfl rfl rfl rfl rfl)
    (sound_same rfl) ⟨Nat.le_of_ble_eq_true rfl, Nat.le_of_ble_eq_true rfl⟩ (fun e => by cases e) (.inl rfl) (.inl rfl)⟩

theorem exec_keeps_rla (s : State) :
    ∃ t, exec .rla s = .next t ∧ ExecKeeps .rla s t :=
  ⟨_, rfl, ExecKeeps.of _ s _ (keepsRest_of_mc _ _ rfl rfl rfl rfl rfl rfl rfl rfl rfl rfl rfl rfl rfl rfl rfl rfl)
    (sound_same rfl) ⟨Nat.le_of_ble_eq_true rfl, Nat.le_of_ble_eq_true rfl⟩ (fun e => by cases e) (.inl rfl) (.inl rfl)⟩

theorem exec_keeps_rrca (s : State) :
    ∃ t, exec .rrca s = .next t ∧ ExecKeeps .rrca s t :=
  ⟨_, rfl, ExecKeeps.of _ s _ (keepsRest_of_mc _ _ rfl rfl rfl rfl rfl rfl rfl rfl rfl rfl rfl rfl rfl rfl rfl rfl)
    (sound_same rfl) ⟨Nat.le_of_ble_eq_true rfl, Nat.le_of_ble_eq_true rfl⟩ (fun e => by cases e) (.inl rfl) (.inl rfl)⟩

theorem exec_keeps_rra (s : State) :
    ∃ t, exec .rra s = .next t ∧ ExecKeeps .rra s t :=
  ⟨_, rfl, ExecKeeps.of _ s _ (keepsRest_of_mc _ _ rfl rfl rfl rfl rfl rfl rfl rfl rfl rfl rfl rfl rfl rfl rfl rfl)
    (sound_same rfl) ⟨Nat.le_of_ble_eq_true rfl, Nat.le_of_ble_eq_true rfl⟩ (fun e => by cases e) (.inl rfl) (.inl rfl)⟩

theorem exec_keeps_rlcR (r : Reg8) (s : State) :
    ∃ t, exec (.rlcR r) s = .next t ∧ ExecKeeps (.rlcR r) s t :=
  by
  refine ⟨_, rfl, ?_⟩
  cases r <;> exact ExecKeeps.of _ s _ (keepsRest_of_mc _ _ rfl rfl rfl rfl rfl rfl rfl rfl rfl rfl rfl rfl rfl rfl rfl rfl)
    (sound_same rfl) ⟨Nat.le_of_ble_eq_true rfl, Nat.le_of_ble_eq_true rfl⟩ (fun e => by cases e) (.inl rfl) (.inl rfl)

theorem exec_keeps_rlcIndHl (s : State) :
    ∃ t, exec .rlcIndHl s = .next t ∧ ExecKeeps .rlcIndHl s t :=
  ⟨_, rfl, ExecKeeps.of _ s _ ((s.memWrite_keepsRest _ _).trans (keepsRest_of_mc _ _ rfl rfl rfl rfl rfl rfl rfl rfl rfl rfl rfl rfl rfl rfl rfl rfl))
    (sound_write rfl) ⟨Nat.le_of_ble_eq_true rfl, Nat.le_of_ble_eq_true rfl⟩ (fun e => by cases e) (.inl rfl) (.inl rfl)⟩

theorem exec_keeps_rlcIdx (xy : IdxReg) (d : Byte) (s : State) :
    ∃ t, exec (.rlcIdx xy d) s = .next t ∧ ExecKeeps (.rlcIdx xy d) s t :=
  ⟨_, rfl, ExecKeeps.of _ s _ ((s.memWrite_keepsRest _ _).trans (keepsRest_of_mc _ _ rfl rfl rfl rfl rfl rfl rfl rfl rfl rfl rfl rfl rfl rfl rfl rfl))
    (sound_write rfl) ⟨Nat.le_of_ble_eq_true rfl, Nat.le_of_ble_eq_true rfl⟩ (fun e => by cases e) (.inl rfl) (.inl rfl)⟩

theorem exec_keeps_rrcR (r : Reg8) (s : State) :
    ∃ t, exec (.rrcR r) s = .next t ∧ ExecKeeps (.rrcR r) s t :=
  by
  refine ⟨_, rfl, ?_⟩
  cases r <;> exact ExecKeeps.of _ s _ (keepsRest_of_mc _ _ rfl rfl rfl rfl rfl rfl rfl rfl rfl rfl rfl rfl rfl rfl rfl rfl)
    (sound_same rfl) ⟨Nat.le_of_ble_eq_true rfl, Nat.le_of_ble_eq_true rfl⟩ (fun e => by cases e) (.inl rfl) (.inl rfl)

theorem exec_keeps_rrcIndHl (s : State) :
    ∃ t, exec .rrcIndHl s = .next t ∧ ExecKeeps .rrcIndHl s t :=
  ⟨_, rfl, ExecKeeps.of _ s _ ((s.memWrite_keepsRest _ _).trans (keepsRest_of_mc _ _ rfl rfl rfl rfl rfl rfl rfl rfl rfl rfl rfl rfl rfl rfl rfl rfl))
    (sound_write rfl) ⟨Nat.le_of_ble_eq_true rfl, Nat.le_of_ble_eq_true rfl⟩ (fun e => by cases e) (.inl rfl) (.inl rfl)⟩

theorem exec_keeps_rrcIdx (xy : IdxReg) (d : Byte) (s : State) :
    ∃ t, exec (.rrcIdx xy d) s = .next t ∧ ExecKeeps (.rrcIdx xy d) s t :=
  ⟨_, rfl, ExecKeeps.of _ s _ ((s.memWrite_keepsRest _ _).trans (keepsRest_of_mc _ _ rfl rfl rfl rfl rfl rfl rfl rfl rfl rfl rfl rfl rfl rfl rfl rfl))
    (sound_write rfl) ⟨Nat.le_of_ble_eq_true rfl, Nat.le_of_ble_eq_true rfl⟩ (fun e => by cases e) (.inl rfl) (.inl rfl)⟩

theorem exec_keeps_rlR (r : Reg8) (s : State) :
    ∃ t, exec (.rlR r) s = .next t ∧ ExecKeeps (.rlR r) s t :=
  by
  refine ⟨_, rfl, ?_⟩
  cases r <;> exact ExecKeeps.of _ s _ (keepsRest_of_mc _ _ rfl rfl rfl rfl rfl rfl rfl rfl rfl rfl rfl rfl rfl rfl rfl rfl)
    (sound_same rfl) ⟨Nat.le_of_ble_eq_true rfl, Nat.le_of_ble_eq_true rfl⟩ (fun e => by cases e) (.inl rfl) (.inl rfl)

theorem exec_keeps_rlIndHl (s : State) :
    ∃ t, exec .rlIndHl s = .next t ∧ ExecKeeps .rlIndHl s t :=
  ⟨_, rfl, ExecKeeps.of _ s _ ((s.memWrite_keepsRest _ _).trans (keepsRest_of_mc _ _ rfl rfl rfl rfl rfl rfl rfl rfl rfl rfl rfl rfl rfl rfl rfl rfl))
    (sound_write rfl) ⟨Nat.le_of_ble_eq_true rfl, Nat.le_of_ble_eq_true rfl⟩ (fun e => by cases e) (.inl rfl) (.inl rfl)⟩

theorem exec_keeps_rlIdx (xy : IdxReg) (d : Byte) (s : State) :
    ∃ t, exec (.rlIdx xy d) s = .next t ∧ ExecKeeps (.rlIdx xy d) s t :=
  ⟨_, rfl, ExecKeeps.of _ s _ ((s.memWrite_keepsRest _ _).trans (keepsRest_of_mc _ _ rfl rfl rfl rfl rfl rfl rfl rfl rfl rfl rfl rfl rfl rfl rfl rfl))
    (sound_write rfl) ⟨Nat.le_of_ble_eq_true rfl, Nat.le_of_ble_eq_true rfl⟩ (fun e => by cases e) (.inl rfl) (.inl rfl)⟩

theorem exec_keeps_rrR (r : Reg8) (s : State) :
    ∃ t, exec (.rrR r) s = .next t ∧ ExecKeeps (.rrR r) s t :=
  by
  refine ⟨_, rfl, ?_⟩
  cases r <;> exact ExecKeeps.of _ s _ (keepsRest_of_mc _ _ rfl rfl rfl rfl rfl rfl rfl rfl rfl rfl rfl rfl rfl rfl rfl rfl)
    (sound_same rfl) ⟨Nat.le_of_ble_eq_true rfl, Nat.le_of_ble_eq_true rfl⟩ (fun e => by cases e) (.inl rfl) (.inl rfl)

theorem exec_keeps_rrIndHl (s : State) :
    ∃ t, exec .rrIndHl s = .next t ∧ ExecKeeps .rrIndHl s t :=
  ⟨_, rfl, ExecKeeps.of _ s _ ((s.memWrite_keepsRest _ _).trans (keepsRest_of_mc _ _ rfl rfl rfl rfl rfl rfl rfl rfl rfl rfl rfl rfl rfl rfl rfl rfl))
    (sound_write rfl) ⟨Nat.le_of_ble_eq_true rfl, Nat.le_of_ble_eq_true rfl⟩ (fun e => by cases e) (.inl rfl) (.inl rfl)⟩

theorem exec_keeps_rrIdx (xy : IdxReg) (d : Byte) (s : State) :
    ∃ t, exec (.rrIdx xy d) s = .next t ∧ ExecKeeps (.rrIdx xy d) s t :=
  ⟨_, rfl, ExecKeeps.of _ s _ ((s.memWrite_keepsRest _ _).trans (keepsRest_of_mc _ _ rfl rfl rfl rfl rfl rfl rfl rfl rfl rfl rfl rfl rfl rfl rfl rfl))
    (sound_write rfl) ⟨Nat.le_of_ble_eq_true rfl, Nat.le_of_ble_eq_true rfl⟩ (fun e => by cases e) (.inl rfl) (.inl rfl)⟩

theorem exec_keeps_slaR (r : Reg8) (s : State) :
    ∃ t, exec (.slaR r) s = .next t ∧ ExecKeeps (.slaR r) s t :=
  by
  refine ⟨_, rfl, ?_⟩
  cases r <;> exact ExecKeeps.of _ s _ (keepsRest_of_mc _ _ rfl rfl rfl rfl rfl rfl rfl rfl rfl rfl rfl rfl rfl rfl rfl rfl)
    (sound_same rfl) ⟨Nat.le_of_ble_eq_true rfl, Nat.le_of_ble_eq_true rfl⟩ (fun e => by cases e) (.inl rfl) (.inl rfl)

theorem exec_keeps_slaIndHl (s : State) :
    ∃ t, exec .slaIndHl s = .next t ∧ ExecKeeps .slaIndHl s t :=
  ⟨_, rfl, ExecKeeps.of _ s _ ((s.memWrite_keepsRest _ _).trans (keepsRest_of_mc _ _ rfl rfl rfl rfl rfl rfl rfl rfl rfl rfl rfl rfl rfl rfl rfl rfl))
    (sound_write rfl) ⟨Nat.le_of_ble_eq_true rfl, Nat.le_of_ble_eq_true rfl⟩ (fun e => by cases e) (.inl rfl) (.inl rfl)⟩

theorem exec_keeps_slaIdx (xy : IdxReg) (d : Byte) (s : State) :
    ∃ t, exec (.slaIdx xy d) s = .next t ∧ ExecKeeps (.slaIdx xy d) s t :=
  ⟨_, rfl, ExecKeeps.of _ s _ ((s.memWrite_keepsRest _ _).trans (keepsRest_of_mc _ _ rfl rfl rfl rfl rfl rfl rfl rfl rfl rfl rfl rfl rfl rfl rfl rfl))
    (sound_write rfl) ⟨Nat.le_of_ble_eq_true rfl, Nat.le_of_ble_eq_true rfl⟩ (fun e => by cases e) (.inl rfl) (.inl rfl)⟩

theorem exec_keeps_sraR (r : Reg8) (s : State) :
    ∃ t, exec (.sraR r) s = .next t ∧ ExecKeeps (.sraR r) s t :=
  by
  refine ⟨_, rfl, ?_⟩
  cases r <;> exact ExecKeeps.of _ s _ (keepsRest_of_mc _ _ rfl rfl rfl rfl rfl rfl rfl rfl rfl rfl rfl rfl rfl rfl rfl rfl)
    (sound_same rfl) ⟨Nat.le_of_ble_eq_true rfl, Nat.le_of_ble_eq_true rfl⟩ (fun e => by cases e) (.inl rfl) (.inl rfl)

theorem exec_keeps_sraIndHl (s : State) :
    ∃ t, exec .sraIndHl s = .next t ∧ ExecKeeps .sraIndHl s t :=
  ⟨_, rfl, ExecKeeps.of _ s _ ((s.memWrite_keepsRest _ _).trans (keepsRest_of_mc _ _ rfl rfl rfl rfl rfl rfl rfl rfl rfl rfl rfl rfl rfl rfl rfl rfl))
    (sound_write rfl) ⟨Nat.le_of_ble_eq_true rfl, Nat.le_of_ble_eq_true rfl⟩ (fun e => by cases e) (.inl rfl) (.inl rfl)⟩

theorem exec_keeps_sraIdx (xy : IdxReg) (d : Byte) (s : State) :
    ∃ t, exec (.sraIdx xy d) s = .next t ∧ ExecKeeps (.sraIdx xy d) s t :=
  ⟨_, rfl, ExecKeeps.of _ s _ ((s.memWrite_keepsRest _ _).trans (keepsRest_of_mc _ _ rfl rfl rfl rfl rfl rfl rfl rfl rfl rfl rfl rfl rfl rfl rfl rfl))
    (sound_write rfl) ⟨Nat.le_of_ble_eq_true rfl, Nat.le_of_ble_eq_true rfl⟩ (fun e => by cases e) (.inl rfl) (.inl rfl)⟩

theorem exec_keeps_srlR (r : Reg8) (s : State) :
    ∃ t, exec (.srlR r) s = .next t ∧ ExecKeeps (.srlR r) s t :=
  by
  refine ⟨_, rfl, ?_⟩
  cases r <;> exact ExecKeeps.of _ s _ (keepsRest_of_mc _ _ rfl rfl rfl rfl rfl rfl rfl rfl rfl rfl rfl rfl rfl rfl rfl rfl)
    (sound_same rfl) ⟨Nat.le_of_ble_eq_true rfl, Nat.le_of_ble_eq_true rfl⟩ (fun e => by cases e) (.inl rfl) (.inl rfl)

theorem exec_keeps_srlIndHl (s : State) :
    ∃ t, exec .srlIndHl s = .next t ∧ ExecKeeps .srlIndHl s t :=
  ⟨_, rfl, ExecKeeps.of _ s _ ((s.memWrite_keepsRest _ _).trans (keepsRest_of_mc _ _ rfl rfl rfl rfl rfl rfl rfl rfl rfl rfl rfl rfl rfl rfl rfl rfl))
    (sound_write rfl) ⟨Nat.le_of_ble_eq_true rfl, Nat.le_of_ble_eq_true rfl⟩ (fun e => by cases e) (.inl rfl) (.inl rfl)⟩

theorem exec_keeps_srlIdx (xy : IdxReg) (d : Byte) (s : State) :
    ∃ t, exec (.srlIdx xy d) s = .next t ∧ ExecKeeps (.srlIdx xy d) s t :=
  ⟨_, rfl, ExecKeeps.of _ s _ ((s.memWrite_keepsRest _ _).trans (keepsRest_of_mc _ _ rfl rfl rfl rfl rfl rfl rfl rfl rfl rfl rfl rfl rfl rfl rfl rfl))
    (sound_write rfl) ⟨Nat.le_of_ble_eq_true rfl, Nat.le_of_ble_eq_true rfl⟩ (fun e => by cases e) (.inl rfl) (.inl rfl)⟩

theorem exec_keeps_rld (s : State) :
    ∃ t, exec .rld s = .next t ∧ ExecKeeps .rld s t :=
  ⟨_, rfl, ExecKeeps.of _ s _ ((s.memWrite_keepsRest _ _).trans (keepsRest_of_mc _ _ rfl rfl rfl rfl rfl rfl rfl rfl rfl rfl rfl rfl rfl rfl rfl rfl))
    (sound_write rfl) ⟨Nat.le_of_ble_eq_true rfl, Nat.le_of_ble_eq_true rfl⟩ (fun e => by cases e) (.inl rfl) (.inl rfl)⟩

theorem exec_keeps_rrd (s : State) :
    ∃ t, exec .rrd s = .next t ∧ ExecKeeps .rrd s t :=
  ⟨_, rfl, ExecKeeps.of _ s _ ((s.memWrite_keepsRest _ _).trans (keepsRest_of_mc _ _ rfl rfl rfl rfl rfl rfl rfl rfl rfl rfl rfl rfl rfl rfl rfl rfl))
    (sound_write rfl) ⟨Nat.le_of_ble_eq_true rfl, Nat.le_of_ble_eq_true rfl⟩ (fun e => by cases e) (.inl rfl) (.inl rfl)⟩

theorem exec_keeps_bitR (b : BitVec 3) (r : Reg8) (s : State) :
    ∃ t, exec (.bitR b r) s = .next t ∧ ExecKeeps (.bitR b r) s t :=
  ⟨_, rfl, ExecKeeps.of _ s _ (keepsRest_of_mc _ _ rfl rfl rfl rfl rfl rfl rfl rfl rfl rfl rfl rfl rfl rfl rfl rfl)
    (sound_same rfl) ⟨Nat.le_of_ble_eq_true rfl, Nat.le_of_ble_eq_true rfl⟩ (fun e => by cases e) (.inl rfl) (.inl rfl)⟩

theorem exec_keeps_bitIndHl (b : BitVec 3) (s : State) :
    ∃ t, exec (.bitIndHl b) s = .next t ∧ ExecKeeps (.bitIndHl b) s t :=
  ⟨_, rfl, ExecKeeps.of _ s _ (keepsRest_of_mc _ _ rfl rfl rfl rfl rfl rfl rfl rfl rfl rfl rfl rfl rfl rfl rfl rfl)
    (sound_same rfl) ⟨Nat.le_of_ble_eq_true rfl, Nat.le_of_ble_eq_true rfl⟩ (fun e => by cases e) (.inl rfl) (.inl rfl)⟩

theorem exec_keeps_bitIdx (b : BitVec 3) (xy : IdxReg) (d : Byte) (s : State) :
    ∃ t, exec (.bitIdx b xy d) s = .next t ∧ ExecKeeps (.bitIdx b xy d) s t :=
  ⟨_, rfl, ExecKeeps.of _ s _ (keepsRest_of_mc _ _ rfl rfl rfl rfl rfl rfl rfl rfl rfl rfl rfl rfl rfl rfl rfl rfl)
    (sound_same rfl) ⟨Nat.le_of_ble_eq_true rfl, Nat.le_of_ble_eq_true rfl⟩ (fun e => by cases e) (.inl rfl) (.inl rfl)⟩

theorem exec_keeps_setR (b : BitVec 3) (r : Reg8) (s : State) :
    ∃ t, exec (.setR b r) s = .next t ∧ ExecKeeps (.setR b r) s t :=
  by
  refine ⟨_, rfl, ?_⟩
  cases r <;> exact ExecKeeps.of _ s _ (keepsRest_of_mc _ _ rfl rfl rfl rfl rfl rfl rfl rfl rfl rfl rfl rfl rfl rfl rfl rfl)
    (sound_same rfl) ⟨Nat.le_of_ble_eq_true rfl, Nat.le_of_ble_eq_true rfl⟩ (fun e => by cases e) (.inl rfl) (.inl rfl)

theorem exec_keeps_setIndHl (b : BitVec 3) (s : State) :
    ∃ t, exec (.setIndHl b) s = .next t ∧ ExecKeeps (.setIndHl b) s t :=
  ⟨_, rfl, ExecKeeps.of _ s _ ((s.memWrite_keepsRest _ _).trans (keepsRest_of_mc _ _ rfl rfl rfl rfl rfl rfl rfl rfl rfl rfl rfl rfl rfl rfl rfl rfl))
    (sound_write rfl) ⟨Nat.le_of_ble_eq_true rfl, Nat.le_of_ble_eq_true rfl⟩ (fun e => by cases e) (.inl rfl) (.inl rfl)⟩

theorem exec_keeps_setIdx (b : BitVec 3) (xy : IdxReg) (d : Byte) (s : State) :
    ∃ t, exec (.setIdx b xy d) s = .next t ∧ ExecKeeps (.setIdx b xy d) s t :=
  ⟨_, rfl, ExecKeeps.of _ s _ ((s.memWrite_keepsRest _ _).trans (keepsRest_of_mc _ _ rfl rfl rfl rfl rfl rfl rfl rfl rfl rfl rfl rfl rfl rfl rfl rfl))
    (sound_write rfl) ⟨Nat.le_of_ble_eq_true rfl, Nat.le_of_ble_eq_true rfl⟩ (fun e => by cases e) (.inl rfl) (.inl rfl)⟩

theorem exec_keeps_resR (b : BitVec 3) (r : Reg8) (s : State) :
    ∃ t, exec (.resR b r) s = .next t ∧ ExecKeeps (.resR b r) s t :=
  by
  refine ⟨_, rfl, ?_⟩
  cases r <;> exact ExecKeeps.of _ s _ (keepsRest_of_mc _ _ rfl rfl rfl rfl rfl rfl rfl rfl rfl rfl rfl rfl rfl rfl rfl rfl)
    (sound_same rfl) ⟨Nat.le_of_ble_eq_true rfl, Nat.le_of_ble_eq_true rfl⟩ (fun e => by cases e) (.inl rfl) (.inl rfl)

theorem exec_keeps_resIndHl (b : BitVec 3) (s : State) :
    ∃ t, exec (.resIndHl b) s = .next t ∧ ExecKeeps (.resIndHl b) s t :=
  ⟨_, rfl, ExecKeeps.of _ s _ ((s.memWrite_keepsRest _ _).trans (keepsRest_of_mc _ _ rfl rfl rfl rfl rfl rfl rfl rfl rfl rfl rfl rfl rfl rfl rfl rfl))
    (sound_write rfl) ⟨Nat.le_of_ble_eq_true rfl, Nat.le_of_ble_eq_true rfl⟩ (fun e => by cases e) (.inl rfl) (.inl rfl)⟩

theorem exec_keeps_resIdx (b : BitVec 3) (xy : IdxReg) (d : Byte) (s : State) :
    ∃ t, exec (.resIdx b xy d) s = .next t ∧ ExecKeeps (.resIdx b xy d) s t :=
  ⟨_, rfl, ExecKeeps.of _ s _ ((s.memWrite_keepsRest _ _).trans (keepsRest_of_mc _ _ rfl rfl rfl rfl rfl rfl rfl rfl rfl rfl rfl rfl rfl rfl rfl rfl))
    (sound_write rfl) ⟨Nat.le_of_ble_eq_true rfl, Nat.le_of_ble_eq_true rfl⟩ (fun e => by cases e) (.inl rfl) (.inl rfl)⟩

theorem exec_keeps_jpNn (nn : Word) (s : State) :
    ∃ t, exec (.jpNn nn) s = .next t ∧ ExecKeeps (.jpNn nn) s t :=
  ⟨_, rfl, ExecKeeps.of _ s _ (keepsRest_of_mc _ _ rfl rfl rfl rfl rfl rfl rfl rfl rfl rfl rfl rfl rfl rfl rfl rfl)
    (sound_same rfl) ⟨Nat.le_of_ble_eq_true rfl, Nat.le_of_ble_eq_true rfl⟩ (fun e => by cases e) (.inl rfl) (.inl rfl)⟩

theorem exec_keeps_jpCcNn (cc : Cond) (nn : Word) (s : State) :
    ∃ t, exec (.jpCcNn cc nn) s = .next t ∧ ExecKeeps (.jpCcNn cc nn) s t :=
  by
  refine ⟨_, rfl, ?_⟩
  cases s.cond cc
  · exact ExecKeeps.of _ s _ (keepsRest_of_mc _ _ rfl rfl rfl rfl rfl rfl rfl rfl rfl rfl rfl rfl rfl rfl rfl rfl) (sound_same rfl)
      ⟨Nat.le_of_ble_eq_true rfl, Nat.le_of_ble_eq_true rfl⟩ (fun e => by cases e) (.inl rfl) (.inl rfl)
  · exact ExecKeeps.of _ s _ (keepsRest_of_mc _ _ rfl rfl rfl rfl rfl rfl rfl rfl rfl rfl rfl rfl rfl rfl rfl rfl) (sound_same rfl)
      ⟨Nat.le_of_ble_eq_true rfl, Nat.le_of_ble_eq_true rfl⟩ (fun e => by cases e) (.inl rfl) (.inl rfl)

theorem exec_keeps_jrE (e : Byte) (s : State) :
    ∃ t, exec (.jrE e) s = .next t ∧ ExecKeeps (.jrE e) s t :=
  ⟨_, rfl, ExecKeeps.of _ s _ (keepsRest_of_mc _ _ rfl rfl rfl rfl rfl rfl rfl rfl rfl rfl rfl rfl rfl rfl rfl rfl)
    (sound_same rfl) ⟨Nat.le_of_ble_eq_true rfl, Nat.le_of_ble_eq_true rfl⟩ (fun e => by cases e) (.inl rfl) (.inl rfl)⟩

theorem exec_keeps_jrCcE (cc : Cond) (e : Byte) (s : State) :
    ∃ t, exec (.jrCcE cc e) s = .next t ∧ ExecKeeps (.jrCcE cc e) s t :=
  by
  refine ⟨_, rfl, ?_⟩
  cases s.cond cc
  · exact ExecKeeps.of _ s _ (keepsRest_of_mc _ _ rfl rfl rfl rfl rfl rfl rfl rfl rfl rfl rfl rfl rfl rfl rfl rfl) (sound_same rfl)
      ⟨Nat.le_of_ble_eq_true rfl, Nat.le_of_ble_eq_true rfl⟩ (fun e => by cases e) (.inl rfl) (.inl rfl)
  · exact ExecKeeps.of _ s _ (keepsRest_of_mc _ _ rfl rfl rfl rfl rfl rfl rfl rfl rfl rfl rfl rfl rfl rfl rfl rfl) (sound_same rfl)
      ⟨Nat.le_of_ble_eq_true rfl, Nat.le_of_ble_eq_true rfl⟩ (fun e => by cases e) (.inl rfl) (.inl rfl)

theorem exec_keeps_jpIndHl (s : State) :
    ∃ t, exec .jpIndHl s = .next t ∧ ExecKeeps .jpIndHl s t :=
  ⟨_, rfl, ExecKeeps.of _ s _ (keepsRest_of_mc _ _ rfl rfl rfl rfl rfl rfl rfl rfl rfl rfl rfl rfl rfl rfl rfl rfl)
    (sound_same rfl) ⟨Nat.le_of_ble_eq_true rfl, Nat.le_of_ble_eq_true rfl⟩ (fun e => by cases e) (.inl rfl) (.inl rfl)⟩

theorem exec_keeps_jpIndXy (xy : IdxReg) (s : State) :
    ∃ t, exec (.jpIndXy xy) s = .next t ∧ ExecKeeps (.jpIndXy xy) s t :=
  ⟨_, rfl, ExecKeeps.of _ s _ (keepsRest_of_mc _ _ rfl rfl rfl rfl rfl rfl rfl rfl rfl rfl rfl rfl rfl rfl rfl rfl)
    (sound_same rfl) ⟨Nat.le_of_ble_eq_true rfl, Nat.le_of_ble_eq_true rfl⟩ (fun e => by cases e) (.inl rfl) (.inl rfl)⟩

theorem exec_keeps_djnzE (e : Byte) (s : State) :
    ∃ t, exec (.djnzE e) s = .next t ∧ ExecKeeps (.djnzE e) s t :=
  by
  refine ⟨_, rfl, ?_⟩
  cases (s.setB (s.main.b - 1#8)).main.b != 0#8
  · exact ExecKeeps.of _ s _ (keepsRest_of_mc _ _ rfl rfl rfl rfl rfl rfl rfl rfl rfl rfl rfl rfl rfl rfl rfl rfl) (sound_same rfl)
      ⟨Nat.le_of_ble_eq_true rfl, Nat.le_of_ble_eq_true rfl⟩ (fun e => by cases e) (.inl rfl) (.inl rfl)
  · exact ExecKeeps.of _ s _ (keepsRest_of_mc _ _ rfl rfl rfl rfl rfl rfl rfl rfl rfl rfl rfl rfl rfl rfl rfl rfl) (sound_same rfl)
      ⟨Nat.le_of_ble_eq_true rfl, Nat.le_of_ble_eq_true rfl⟩ (fun e => by cases e) (.inl rfl) (.inl rfl)

theorem exec_keeps_callNn (nn : Word) (s : State) :
    ∃ t, exec (.callNn nn) s = .next t ∧ ExecKeeps (.callNn nn) s t :=
  ⟨_, rfl, ExecKeeps.of _ s _ ((s.push16_keepsRest _).trans (keepsRest_of_mc _ _ rfl rfl rfl rfl rfl rfl rfl rfl rfl rfl rfl rfl rfl rfl rfl rfl))
    (sound_write2 rfl) ⟨Nat.le_of_ble_eq_true rfl, Nat.le_of_ble_eq_true rfl⟩ (fun e => by cases e) (.inl rfl) (.inl rfl)⟩

theorem exec_keeps_callCcNn (cc : Cond) (nn : Word) (s : State) :
    ∃ t, exec (.callCcNn cc nn) s = .next t ∧ ExecKeeps (.callCcNn cc nn) s t :=
  by
  refine ⟨_, rfl, ?_⟩
  cases s.cond cc
  · exact ExecKeeps.of _ s _ (keepsRest_of_mc _ _ rfl rfl rfl rfl rfl rfl rfl rfl rfl rfl rfl rfl rfl rfl rfl rfl) (sound_same rfl)
      ⟨Nat.le_of_ble_eq_true rfl, Nat.le_of_ble_eq_true rfl⟩ (fun e => by cases e) (.inl rfl) (.inl rfl)
  · exact ExecKeeps.of _ s _ ((s.push16_keepsRest _).trans (State.goto_keepsRest _ _ _)) (sound_write2 rfl)
      ⟨Nat.le_of_ble_eq_true rfl, Nat.le_of_ble_eq_true rfl⟩ (fun e => by cases e) (.inl rfl) (.inl rfl)

theorem exec_keeps_ret (s : State) :
    ∃ t, exec .ret s = .next t ∧ ExecKeeps .ret s t :=
  ⟨_, rfl, ExecKeeps.of _ s _ (keepsRest_of_mc _ _ rfl rfl rfl rfl rfl rfl rfl rfl rfl rfl rfl rfl rfl rfl rfl rfl)
    (sound_same rfl) ⟨Nat.le_of_ble_eq_true rfl, Nat.le_of_ble_eq_true rfl⟩ (fun e => by cases e) (.inl rfl) (.inl rfl)⟩

theorem exec_keeps_reti (s : State) :
    ∃ t, exec .reti s = .next t ∧ ExecKeeps .reti s t :=
  ⟨_, rfl, ⟨rfl, rfl, rfl, rfl, rfl, rfl, rfl, rfl⟩, sound_same rfl, Nat.le_of_ble_eq_true rfl, Nat.le_of_ble_eq_true rfl, .inl rfl, .inl rfl, .inl rfl, .inl rfl, .inl rfl, .inr rfl,
    fun e => (by cases e), fun _ => rfl, .inl rfl, .inl rfl⟩

theorem exec_keeps_retn (s : State) :
    ∃ t, exec .retn s = .next t ∧ ExecKeeps .retn s t :=
  ⟨_, rfl, ⟨rfl, rfl, rfl, rfl, rfl, rfl, rfl, rfl⟩, sound_same rfl, Nat.le_of_ble_eq_true rfl, Nat.le_of_ble_eq_true rfl, .inl rfl, .inl rfl, .inl rfl, .inl rfl, .inl rfl, .inr rfl,
    fun e => (by cases e), fun _ => rfl, .inl rfl, .inl rfl⟩

theorem exec_keeps_rstP (p : Byte) (s : State) :
    ∃ t, exec (.rstP p) s = .next t ∧ ExecKeeps (.rstP p) s t :=
  ⟨_, rfl, ExecKeeps.of _ s _ ((s.push16_keepsRest _).trans (keepsRest_of_mc _ _ rfl rfl rfl rfl rfl rfl rfl rfl rfl rfl rfl rfl rfl rfl rfl rfl))
    (sound_write2 rfl) ⟨Nat.le_of_ble_eq_true rfl, Nat.le_of_ble_eq_true rfl⟩ (fun e => by cases e) (.inl rfl) (.inl rfl)⟩

theorem exec_keeps_retCc (cc : Cond) (s : State) :
    ∃ t, exec (.retCc cc) s = .next t ∧ ExecKeeps (.retCc cc) s t :=
  by
  refine ⟨_, rfl, ?_⟩
  cases s.cond cc
  · exact ExecKeeps.of _ s _ (keepsRest_of_mc _ _ rfl rfl rfl rfl rfl rfl rfl rfl rfl rfl rfl rfl rfl rfl rfl rfl) (sound_same rfl)
      ⟨Nat.le_of_ble_eq_true rfl, Nat.le_of_ble_eq_true rfl⟩ (fun e => by cases e) (.inl rfl) (.inl rfl)
  · exact ExecKeeps.of _ s _ (keepsRest_of_mc _ _ rfl rfl rfl rfl rfl rfl rfl rfl rfl rfl rfl rfl rfl rfl rfl rfl) (sound_same rfl)
      ⟨Nat.le_of_ble_eq_true rfl, Nat.le_of_ble_eq_true rfl⟩ (fun e => by cases e) (.inl rfl) (.inl rfl)

theorem exec_keeps_inAIndN (n : Byte) (s : State) :
    ∃ t, exec (.inAIndN n) s = .next t ∧ ExecKeeps (.inAIndN n) s t :=
  ⟨_, rfl, ExecKeeps.ofIo _ s _ ⟨rfl, ⟨rfl, rfl⟩, rfl, ⟨rfl, rfl⟩, ⟨rfl, rfl, rfl, rfl, rfl⟩, ⟨rfl, rfl, rfl, rfl, rfl, rfl, rfl, rfl⟩⟩
    (sound_same rfl) ⟨Nat.le_of_ble_eq_true rfl, Nat.le_of_ble_eq_true rfl⟩ (fun e => by cases e) (.inl rfl) (.inl rfl)⟩

theorem exec_keeps_inRIndC (r : Reg8) (s : State) :
    ∃ t, exec (.inRIndC r) s = .next t ∧ ExecKeeps (.inRIndC r) s t :=
  by
  refine ⟨_, rfl, ?_⟩
  cases r <;> exact ExecKeeps.ofIo _ s _ ⟨rfl, ⟨rfl, rfl⟩, rfl, ⟨rfl, rfl⟩, ⟨rfl, rfl, rfl, rfl, rfl⟩, ⟨rfl, rfl, rfl, rfl, rfl, rfl, rfl, rfl⟩⟩
    (sound_same rfl) ⟨Nat.le_of_ble_eq_true rfl, Nat.le_of_ble_eq_true rfl⟩ (fun e => by cases e) (.inl rfl) (.inl rfl)

theorem exec_keeps_outIndNA (n : Byte) (s : State) :
    ∃ t, exec (.outIndNA n) s = .next t ∧ ExecKeeps (.outIndNA n) s t :=
  ⟨_, rfl, ExecKeeps.ofIo _ s _ ⟨rfl, ⟨rfl, rfl⟩, rfl, ⟨rfl, rfl⟩, ⟨rfl, rfl, rfl, rfl, rfl⟩, ⟨rfl, rfl, rfl, rfl, rfl, rfl, rfl, rfl⟩⟩
    (sound_same rfl) ⟨Nat.le_of_ble_eq_true rfl, Nat.le_of_ble_eq_true rfl⟩ (fun e => by cases e) (.inl rfl) (.inl rfl)⟩

theorem exec_keeps_outIndCR (r : Reg8) (s : State) :
    ∃ t, exec (.outIndCR r) s = .next t ∧ ExecKeeps (.outIndCR r) s t :=
  ⟨_, rfl, ExecKeeps.ofIo _ s _ ⟨rfl, ⟨rfl, rfl⟩, rfl, ⟨rfl, rfl⟩, ⟨rfl, rfl, rfl, rfl, rfl⟩, ⟨rfl, rfl, rfl, rfl, rfl, rfl, rfl, rfl⟩⟩
    (sound_same rfl) ⟨Nat.le_of_ble_eq_true rfl, Nat.le_of_ble_eq_true rfl⟩ (fun e => by cases e) (.inl rfl) (.inl rfl)⟩

theorem exec_keeps_ini (s : State) :
    ∃ t, exec .ini s = .next t ∧ ExecKeeps .ini s t :=
  ⟨_, rfl, ExecKeeps.ofIo _ s _ ⟨rfl, ⟨rfl, rfl⟩, rfl, ⟨rfl, rfl⟩, ⟨rfl, rfl, rfl, rfl, rfl⟩, ⟨rfl, rfl, rfl, rfl, rfl, s.mc.write_keeps _ _⟩⟩
    (sound_write rfl) ⟨Nat.le_of_ble_eq_true rfl, Nat.le_of_ble_eq_true rfl⟩ (fun e => by cases e) (.inl rfl) (.inl rfl)⟩

theorem exec_keeps_inir (s : State) :
    ∃ t, exec .inir s = .next t ∧ ExecKeeps .inir s t :=
  by
  refine ⟨_, rfl, ?_⟩
  cases s.ioGoesOn
  · exact ExecKeeps.ofIo _ s _ ⟨rfl, ⟨rfl, rfl⟩, rfl, ⟨rfl, rfl⟩, ⟨rfl, rfl, rfl, rfl, rfl⟩, ⟨rfl, rfl, rfl, rfl, rfl, s.mc.write_keeps _ _⟩⟩
      (sound_write rfl) ⟨Nat.le_of_ble_eq_true rfl, Nat.le_of_ble_eq_true rfl⟩ (fun e => by cases e) (.inl rfl) (.inl rfl)
  · exact ExecKeeps.ofIo _ s _ ⟨rfl, ⟨rfl, rfl⟩, rfl, ⟨rfl, rfl⟩, ⟨rfl, rfl, rfl, rfl, rfl⟩, ⟨rfl, rfl, rfl, rfl, rfl, s.mc.write_keeps _ _⟩⟩
      (sound_write rfl) ⟨Nat.le_of_ble_eq_true rfl, Nat.le_of_ble_eq_true rfl⟩ (fun e => by cases e) (.inl rfl) (.inl rfl)

theorem exec_keeps_ind (s : State) :
    ∃ t, exec .ind s = .next t ∧ ExecKeeps .ind s t :=
  ⟨_, rfl, ExecKeeps.ofIo _ s _ ⟨rfl, ⟨rfl, rfl⟩, rfl, ⟨rfl, rfl⟩, ⟨rfl, rfl, rfl, rfl, rfl⟩, ⟨rfl, rfl, rfl, rfl, rfl, s.mc.write_keeps _ _⟩⟩
    (sound_write rfl) ⟨Nat.le_of_ble_eq_true rfl, Nat.le_of_ble_eq_true rfl⟩ (fun e => by cases e) (.inl rfl) (.inl rfl)⟩

theorem exec_keeps_indr (s : State) :
    ∃ t, exec .indr s = .next t ∧ ExecKeeps .indr s t :=
  by
  refine ⟨_, rfl, ?_⟩
  cases s.ioGoesOn
  · exact ExecKeeps.ofIo _ s _ ⟨rfl, ⟨rfl, rfl⟩, rfl, ⟨rfl, rfl⟩, ⟨rfl, rfl, rfl, rfl, rfl⟩, ⟨rfl, rfl, rfl, rfl, rfl, s.mc.write_keeps _ _⟩⟩
      (sound_write rfl) ⟨Nat.le_of_ble_eq_true rfl, Nat.le_of_ble_eq_true rfl⟩ (fun e => by cases e) (.inl rfl) (.inl rfl)
  · exact ExecKeeps.ofIo _ s _ ⟨rfl, ⟨rfl, rfl⟩, rfl, ⟨rfl, rfl⟩, ⟨rfl, rfl, rfl, rfl, rfl⟩, ⟨rfl, rfl, rfl, rfl, rfl, s.mc.write_keeps _ _⟩⟩
      (sound_write rfl) ⟨Nat.le_of_ble_eq_true rfl, Nat.le_of_ble_eq_true rfl⟩ (fun e => by cases e) (.inl rfl) (.inl rfl)

theorem exec_keeps_outi (s : State) :
    ∃ t, exec .outi s = .next t ∧ ExecKeeps .outi s t :=
  ⟨_, rfl, ExecKeeps.ofIo _ s _ ⟨rfl, ⟨rfl, rfl⟩, rfl, ⟨rfl, rfl⟩, ⟨rfl, rfl, rfl, rfl, rfl⟩, ⟨rfl, rfl, rfl, rfl, rfl, rfl, rfl, rfl⟩⟩
    (sound_same rfl) ⟨Nat.le_of_ble_eq_true rfl, Nat.le_of_ble_eq_true rfl⟩ (fun e => by cases e) (.inl rfl) (.inl rfl)⟩

theorem exec_keeps_otir (s : State) :
    ∃ t, exec .otir s = .next t ∧ ExecKeeps .otir s t :=
  by
  refine ⟨_, rfl, ?_⟩
  cases s.ioGoesOn
  · exact ExecKeeps.ofIo _ s _ ⟨rfl, ⟨rfl, rfl⟩, rfl, ⟨rfl, rfl⟩, ⟨rfl, rfl, rfl, rfl, rfl⟩, ⟨rfl, rfl, rfl, rfl, rfl, rfl, rfl, rfl⟩⟩
      (sound_same rfl) ⟨Nat.le_of_ble_eq_true rfl, Nat.le_of_ble_eq_true rfl⟩ (fun e => by cases e) (.inl rfl) (.inl rfl)
  · exact ExecKeeps.ofIo _ s _ ⟨rfl, ⟨rfl, rfl⟩, rfl, ⟨rfl, rfl⟩, ⟨rfl, rfl, rfl, rfl, rfl⟩, ⟨rfl, rfl, rfl, rfl, rfl, rfl, rfl, rfl⟩⟩
      (sound_same rfl) ⟨Nat.le_of_ble_eq_true rfl, Nat.le_of_ble_eq_true rfl⟩ (fun e => by cases e) (.inl rfl) (.inl rfl)

theorem exec_keeps_outd (s : State) :
    ∃ t, exec .outd s = .next t ∧ ExecKeeps .outd s t :=
  ⟨_, rfl, ExecKeeps.ofIo _ s _ ⟨rfl, ⟨rfl, rfl⟩, rfl, ⟨rfl, rfl⟩, ⟨rfl, rfl, rfl, rfl, rfl⟩, ⟨rfl, rfl, rfl, rfl, rfl, rfl, rfl, rfl⟩⟩
    (sound_same rfl) ⟨Nat.le_of_ble_eq_true rfl, Nat.le_of_ble_eq_true rfl⟩ (fun e => by cases e) (.inl rfl) (.inl rfl)⟩

theorem exec_keeps_otdr (s : State) :
    ∃ t, exec .otdr s = .next t ∧ ExecKeeps .otdr s t :=
  by
  refine ⟨_, rfl, ?_⟩
  cases s.ioGoesOn
  · exact ExecKeeps.ofIo _ s _ ⟨rfl, ⟨rfl, rfl⟩, rfl, ⟨rfl, rfl⟩, ⟨rfl, rfl, rfl, rfl, rfl⟩, ⟨rfl, rfl, rfl, rfl, rfl, rfl, rfl, rfl⟩⟩
      (sound_same rfl) ⟨Nat.le_of_ble_eq_true rfl, Nat.le_of_ble_eq_true rfl⟩ (fun e => by cases e) (.inl rfl) (.inl rfl)
  · exact ExecKeeps.ofIo _ s _ ⟨rfl, ⟨rfl, rfl⟩, rfl, ⟨rfl, rfl⟩, ⟨rfl, rfl, rfl, rfl, rfl⟩, ⟨rfl, rfl, rfl, rfl, rfl, rfl, rfl, rfl⟩⟩
      (sound_same rfl) ⟨Nat.le_of_ble_eq_true rfl, Nat.le_of_ble_eq_true rfl⟩ (fun e => by cases e) (.inl rfl) (.inl rfl)

/-- Every instruction completes and keeps what `ExecKeeps` says. -/
theorem exec_keeps (i : Instr) (s : State) : ∃ t, exec i s = .next t ∧ ExecKeeps i s t := by
  cases i with
  | ldRR r q => exact exec_keeps_ldRR r q s
  | ldRN r n => exact exec_keeps_ldRN r n s
  | ldRIndHl r => exact exec_keeps_ldRIndHl r s
  | ldIndHlR r => exact exec_keeps_ldIndHlR r s
  | ldIndHlN n => exact exec_keeps_ldIndHlN n s
  | ldAIndBc => exact exec_keeps_ldAIndBc s
  | ldAIndDe => exact exec_keeps_ldAIndDe s
  | ldAIndNn nn => exact exec_keeps_ldAIndNn nn s
  | ldIndBcA => exact exec_keeps_ldIndBcA s
  | ldIndDeA => exact exec_keeps_ldIndDeA s
  | ldIndNnA nn => exact exec_keeps_ldIndNnA nn s
  | ldRIdx r xy d => exact exec_keeps_ldRIdx r xy d s
  | ldIdxR xy d r => exact exec_keeps_ldIdxR xy d r s
  | ldIdxN xy d n => exact exec_keeps_ldIdxN xy d n s
  | ldAI => exact exec_keeps_ldAI s
  | ldAR => exact exec_keeps_ldAR s
  | ldIA => exact exec_keeps_ldIA s
  | ldRA => exact exec_keeps_ldRA s
  | ldDdNn dd nn => exact exec_keeps_ldDdNn dd nn s
  | ldXyNn xy nn => exact exec_keeps_ldXyNn xy nn s
  | ldHlIndNn nn => exact exec_keeps_ldHlIndNn nn s
  | ldDdIndNn dd nn => exact exec_keeps_ldDdIndNn dd nn s
  | ldXyIndNn xy nn => exact exec_keeps_ldXyIndNn xy nn s
  | ldIndNnHl nn => exact exec_keeps_ldIndNnHl nn s
  | ldIndNnDd nn dd => exact exec_keeps_ldIndNnDd nn dd s
  | ldIndNnXy nn xy => exact exec_keeps_ldIndNnXy nn xy s
  | ldSpHl => exact exec_keeps_ldSpHl s
  | ldSpXy xy => exact exec_keeps_ldSpXy xy s
  | pushQq qq => exact exec_keeps_pushQq qq s
  | pushXy xy => exact exec_keeps_pushXy xy s
  | popQq qq => exact exec_keeps_popQq qq s
  | popXy xy => exact exec_keeps_popXy xy s
  | exDeHl => exact exec_keeps_exDeHl s
  | exAfAf => exact exec_keeps_exAfAf s
  | exx => exact exec_keeps_exx s
  | exIndSpHl => exact exec_keeps_exIndSpHl s
  | exIndSpXy xy => exact exec_keeps_exIndSpXy xy s
  | ldi => exact exec_keeps_ldi s
  | ldir => exact exec_keeps_ldir s
  | ldd => exact exec_keeps_ldd s
  | lddr => exact exec_keeps_lddr s
  | cpi => exact exec_keeps_cpi s
  | cpir => exact exec_keeps_cpir s
  | cpd => exact exec_keeps_cpd s
  | cpdr => exact exec_keeps_cpdr s
  | addAR r => exact exec_keeps_addAR r s
  | addAN n => exact exec_keeps_addAN n s
  | addAIndHl => exact exec_keeps_addAIndHl s
  | addAIdx xy d => exact exec_keeps_addAIdx xy d s
  | adcAR r => exact exec_keeps_adcAR r s
  | adcAN n => exact exec_keeps_adcAN n s
  | adcAIndHl => exact exec_keeps_adcAIndHl s
  | adcAIdx xy d => exact exec_keeps_adcAIdx xy d s
  | subR r => exact exec_keeps_subR r s
  | subN n => exact exec_keeps_subN n s
  | subIndHl => exact exec_keeps_subIndHl s
  | subIdx xy d => exact exec_keeps_subIdx xy d s
  | sbcAR r => exact exec_keeps_sbcAR r s
  | sbcAN n => exact exec_keeps_sbcAN n s
  | sbcAIndHl => exact exec_keeps_sbcAIndHl s
  | sbcAIdx xy d => exact exec_keeps_sbcAIdx xy d s
  | andR r => exact exec_keeps_andR r s
  | andN n => exact exec_keeps_andN n s
  | andIndHl => exact exec_keeps_andIndHl s
  | andIdx xy d => exact exec_keeps_andIdx xy d s
  | xorR r => exact exec_keeps_xorR r s
  | xorN n => exact exec_keeps_xorN n s
  | xorIndHl => exact exec_keeps_xorIndHl s
  | xorIdx xy d => exact exec_keeps_xorIdx xy d s
  | orR r => exact exec_keeps_orR r s
  | orN n => exact exec_keeps_orN n s
  | orIndHl => exact exec_keeps_orIndHl s
  | orIdx xy d => exact exec_keeps_orIdx xy d s
  | cpR r => exact exec_keeps_cpR r s
  | cpN n => exact exec_keeps_cpN n s
  | cpIndHl => exact exec_keeps_cpIndHl s
  | cpIdx xy d => exact exec_keeps_cpIdx xy d s
  | incR r => exact exec_keeps_incR r s
  | incIndHl => exact exec_keeps_incIndHl s
  | incIdx xy d => exact exec_keeps_incIdx xy d s
  | decR r => exact exec_keeps_decR r s
  | decIndHl => exact exec_keeps_decIndHl s
  | decIdx xy d => exact exec_keeps_decIdx xy d s
  | daa => exact exec_keeps_daa s
  | cpl => exact exec_keeps_cpl s
  | neg => exact exec_keeps_neg s
  | ccf => exact exec_keeps_ccf s
  | scf => exact exec_keeps_scf s
  | nop => exact exec_keeps_nop s
  | halt => exact exec_keeps_halt s
  | di => exact exec_keeps_di s
  | ei => exact exec_keeps_ei s
  | im0 => exact exec_keeps_im0 s
  | im1 => exact exec_keeps_im1 s
  | im2 => exact exec_keeps_im2 s
  | addHlSs ss => exact exec_keeps_addHlSs ss s
  | adcHlSs ss => exact exec_keeps_adcHlSs ss s
  | sbcHlSs ss => exact exec_keeps_sbcHlSs ss s
  | addXyPp xy pp => exact exec_keeps_addXyPp xy pp s
  | incSs ss => exact exec_keeps_incSs ss s
  | incXy xy => exact exec_keeps_incXy xy s
  | decSs ss => exact exec_keeps_decSs ss s
  | decXy xy => exact exec_keeps_decXy xy s
  | rlca => exact exec_keeps_rlca s
  | rla => exact exec_keeps_rla s
  | rrca => exact exec_keeps_rrca s
  | rra => exact exec_keeps_rra s
  | rlcR r => exact exec_keeps_rlcR r s
  | rlcIndHl => exact exec_keeps_rlcIndHl s
  | rlcIdx xy d => exact exec_keeps_rlcIdx xy d s
  | rrcR r => exact exec_keeps_rrcR r s
  | rrcIndHl => exact exec_keeps_rrcIndHl s
  | rrcIdx xy d => exact exec_keeps_rrcIdx xy d s
  | rlR r => exact exec_keeps_rlR r s
  | rlIndHl => exact exec_keeps_rlIndHl s
  | rlIdx xy d => exact exec_keeps_rlIdx xy d s
  | rrR r => exact exec_keeps_rrR r s
  | rrIndHl => exact exec_keeps_rrIndHl s
  | rrIdx xy d => exact exec_keeps_rrIdx xy d s
  | slaR r => exact exec_keeps_slaR r s
  | slaIndHl => exact exec_keeps_slaIndHl s
  | slaIdx xy d => exact exec_keeps_slaIdx xy d s
  | sraR r => exact exec_keeps_sraR r s
  | sraIndHl => exact exec_keeps_sraIndHl s
  | sraIdx xy d => exact exec_keeps_sraIdx xy d s
  | srlR r => exact exec_keeps_srlR r s
  | srlIndHl => exact exec_keeps_srlIndHl s
  | srlIdx xy d => exact exec_keeps_srlIdx xy d s
  | rld => exact exec_keeps_rld s
  | rrd => exact exec_keeps_rrd s
  | bitR b r => exact exec_keeps_bitR b r s
  | bitIndHl b => exact exec_keeps_bitIndHl b s
  | bitIdx b xy d => exact exec_keeps_bitIdx b xy d s
  | setR b r => exact exec_keeps_setR b r s
  | setIndHl b => exact exec_keeps_setIndHl b s
  | setIdx b xy d => exact exec_keeps_setIdx b xy d s
  | resR b r => exact exec_keeps_resR b r s
  | resIndHl b => exact exec_keeps_resIndHl b s
  | resIdx b xy d => exact exec_keeps_resIdx b xy d s
  | jpNn nn => exact exec_keeps_jpNn nn s
  | jpCcNn cc nn => exact exec_keeps_jpCcNn cc nn s
  | jrE e => exact exec_keeps_jrE e s
  | jrCcE cc e => exact exec_keeps_jrCcE cc e s
  | jpIndHl => exact exec_keeps_jpIndHl s
  | jpIndXy xy => exact exec_keeps_jpIndXy xy s
  | djnzE e => exact exec_keeps_djnzE e s
  | callNn nn => exact exec_keeps_callNn nn s
  | callCcNn cc nn => exact exec_keeps_callCcNn cc nn s
  | ret => exact exec_keeps_ret s
  | reti => exact exec_keeps_reti s
  | retn => exact exec_keeps_retn s
  | rstP p => exact exec_keeps_rstP p s
  | retCc cc => exact exec_keeps_retCc cc s
  | inAIndN n => exact exec_keeps_inAIndN n s
  | inRIndC r => exact exec_keeps_inRIndC r s
  | outIndNA n => exact exec_keeps_outIndNA n s
  | outIndCR r => exact exec_keeps_outIndCR r s
  | ini => exact exec_keeps_ini s
  | inir => exact exec_keeps_inir s
  | ind => exact exec_keeps_ind s
  | indr => exact exec_keeps_indr s
  | outi => exact exec_keeps_outi s
  | otir => exact exec_keeps_otir s
  | outd => exact exec_keeps_outd s
  | otdr => exact exec_keeps_otdr s

/-! ### The step, said once -/

/-- The refresh of a step that fetches, as `State.fetchedR` says it. -/
theorem State.fetchRefresh_eq (s : State) : s.fetchRefresh = { s with regR := s.fetchedR } := by
  have ht : isTableByte (s.memRead s.pc) = true ↔ s.memRead s.pc ∈ [0xCB#8, 0xDD#8, 0xED#8, 0xFD#8] := by
    simp [isTableByte, or_assoc]
  have h1 : s.refresh = { s with regR := refreshed s.regR } := rfl
  have h2 : s.refresh.refresh = { s with regR := refreshed (refreshed s.regR) } := rfl
  unfold State.fetchRefresh State.fetchedR
  cases s.cfg.rInc
  · simp [h1]
  · by_cases hb : s.memRead s.pc ∈ [0xCB#8, 0xDD#8, 0xED#8, 0xFD#8]
    · simp only [ht.mpr hb, if_true, h2, hb, and_self]
    · have : isTableByte (s.memRead s.pc) = false := by simpa using mt ht.mp hb
      simp only [this, hb, and_false, if_false, h1]; simp

/-- The state the effect of a decoded instruction runs on. -/
theorem State.ready_eq (s : State) :
    s.ready = { s with regR := s.fetchedR, eiDelay := s.eiDelay && !s.cfg.hasInterrupts } := by
  unfold State.ready State.endEiDelay
  rw [State.fetchRefresh_eq]
  show (if s.cfg.hasInterrupts = true then _ else _) = _
  cases s.cfg.hasInterrupts <;> simp

/-- A halted cycle, field by field. -/
theorem State.haltedCycle_eq (s : State) : s.haltedCycle =
    { s with regR := refreshed s.regR, lastCycles := 4, eiDelay := s.eiDelay && !s.cfg.hasInterrupts } := by
  have h1 : s.refresh = { s with regR := refreshed s.regR } := rfl
  unfold State.haltedCycle State.endEiDelay
  rw [h1]
  cases s.cfg.hasInterrupts <;> simp

/-- The three acceptances, by their conditions (60_exceptions.md R288). -/
theorem State.acceptance_cases (s : State) :
    (s.acceptance = .nmi ∧ s.cfg.hasInterrupts = true ∧ s.nmiPending = true) ∨
    (s.acceptance = .maskable ∧ s.cfg.hasInterrupts = true ∧ s.nmiPending = false ∧ s.intLine = true ∧
      s.iff1 = true ∧ s.eiDelay = false) ∨
    (s.acceptance = .none ∧ (s.cfg.hasInterrupts = true →
      s.nmiPending = false ∧ ¬ (s.intLine = true ∧ s.iff1 = true ∧ s.eiDelay = false))) := by
  unfold State.acceptance
  cases s.cfg.hasInterrupts <;> cases s.nmiPending <;> cases s.intLine <;> cases s.iff1 <;>
    cases s.eiDelay <;> simp

/-- Everything a step that answers a next state can be (30_encoding.md R104): an acceptance, a halted
cycle, bytes that are no instruction, or an instruction with what `ExecKeeps` says of it. -/
theorem step_cases {s t : State} (h : step s = .next t) : s.fault = none ∧
    ((s.cfg.hasInterrupts = true ∧ s.nmiPending = true ∧ t = s.acceptNmi) ∨
     (s.takesInt ∧ t = s.acceptInt) ∨
     (s.halted = true ∧ t = s.haltedCycle) ∨
     (s.runs ∧ ∃ e, s.decoded = .error e ∧
       t = { s with regR := s.fetchedR }.raiseUnimplemented s.pc (s.fetched.take e.bytesRead)) ∨
     (s.runs ∧ ∃ i, s.decoded = .ok i ∧ exec i s.ready = .next t ∧ ExecKeeps i s.ready t)) := by
  unfold step runStep at h
  cases hf : s.fault with
  | some info => rw [hf] at h; cases h
  | none =>
    refine ⟨rfl, ?_⟩
    rw [hf] at h
    rcases s.acceptance_cases with ⟨ha, h1, h2⟩ | ⟨ha, h1, h2, h3, h4, h5⟩ | ⟨ha, h1⟩ <;> rw [ha] at h
    · cases h; exact .inl ⟨h1, h2, rfl⟩
    · cases h; exact .inr (.inl ⟨⟨h1, hf, h2, h3, h4, h5⟩, rfl⟩)
    · cases hh : s.halted with
      | true => rw [hh] at h; cases h; exact .inr (.inr (.inl ⟨rfl, rfl⟩))
      | false =>
        rw [hh] at h
        have hr : s.runs := ⟨hf, hh, h1⟩
        change s.runInstruction = _ at h
        unfold State.runInstruction at h
        cases hd : s.decoded with
        | error e =>
          rw [hd] at h; cases h
          exact .inr (.inr (.inr (.inl ⟨hr, e, rfl, by simp only [State.fetchRefresh_eq, hf, hh]⟩)))
        | ok i =>
          rw [hd] at h
          obtain ⟨u, h2, h3⟩ := exec_keeps i s.ready
          have e : u = t := by have := h2.symm.trans h; injection this
          exact .inr (.inr (.inr (.inr ⟨hr, i, rfl, h, e ▸ h3⟩)))

/-- Where a step runs an instruction, it is `runInstruction`. -/
theorem step_of_runs {s : State} (h : s.runs) : step s = s.runInstruction := by
  have ha : s.acceptance = .none := by
    rcases s.acceptance_cases with ⟨_, h1, h2⟩ | ⟨_, h1, _, h3, h4, h5⟩ | ⟨ha, _⟩
    · rw [(h.2.2 h1).1] at h2; cases h2
    · exact absurd ⟨h3, h4, h5⟩ (h.2.2 h1).2
    · exact ha
  unfold step runStep
  rw [h.1, ha, h.2.1]; rfl


end Sys2Proof.Machine
end

