-- ==== Sys2Proof/Tests/Slice0.lean ====
section
/-! SUPPORT. The package's own tests: ill-formed terms refused, every constructor's decoding from a word
written out from the spec's encoding of it, single steps with the expected results of 95_test_vectors.md, and
a witness for the hypotheses of each statement. -/

namespace Sys2Proof.Tests

open Sys2Proof Sys2Proof.Machine

/-! ### WellFormed -/

/-- JR takes only NZ, Z, NC, C (30_encoding.md R91): each other condition is refused. -/
theorem test_ill_formed_jr : (Instr.jrCcE .po 0#8).wellFormed = false ∧ (Instr.jrCcE .pe 0#8).wellFormed = false ∧
    (Instr.jrCcE .p 0#8).wellFormed = false ∧ (Instr.jrCcE .m 0#8).wellFormed = false ∧
    (Instr.jrCcE .nc 0#8).wellFormed = true := by decide

/-- RST targets are the multiples of 8 up to 0x38 (30_encoding.md R85). -/
theorem test_ill_formed_rst : (Instr.rstP 0x01#8).wellFormed = false ∧ (Instr.rstP 0x40#8).wellFormed = false ∧
    (Instr.rstP 0x38#8).wellFormed = true := by decide

/-! ### Decoding, by bytes written out from the encoding lines of 40_load8.md to 46_io.md -/

/-- Each list of bytes decodes to its instruction and is that instruction's encoding. -/
def decodesTo (rows : List (List Byte × Instr)) : Bool :=
  rows.all fun r => decide (decodeBytes r.1 = .ok r.2) && decide (encode r.2 = r.1)

theorem test_decode_load8 : decodesTo [
    ([0x78#8], .ldRR .a .b),
    ([0x3E#8, 0x5A#8], .ldRN .a 0x5A#8),
    ([0x66#8], .ldRIndHl .h),
    ([0x75#8], .ldIndHlR .l),
    ([0x36#8, 0x99#8], .ldIndHlN 0x99#8),
    ([0x0A#8], .ldAIndBc),
    ([0x1A#8], .ldAIndDe),
    ([0x3A#8, 0x34#8, 0x12#8], .ldAIndNn 0x1234#16),
    ([0x02#8], .ldIndBcA),
    ([0x12#8], .ldIndDeA),
    ([0x32#8, 0x00#8, 0xC1#8], .ldIndNnA 0xC100#16),
    ([0xDD#8, 0x4E#8, 0xFB#8], .ldRIdx .c .ix 0xFB#8),
    ([0xFD#8, 0x73#8, 0x7F#8], .ldIdxR .iy 0x7F#8 .e),
    ([0xDD#8, 0x36#8, 0x05#8, 0x81#8], .ldIdxN .ix 0x05#8 0x81#8),
    ([0xED#8, 0x57#8], .ldAI),
    ([0xED#8, 0x5F#8], .ldAR),
    ([0xED#8, 0x47#8], .ldIA),
    ([0xED#8, 0x4F#8], .ldRA)] = true := by decide

theorem test_decode_load16_1 : decodesTo [
    ([0x31#8, 0xF0#8, 0xDF#8], .ldDdNn .sp 0xDFF0#16),
    ([0xFD#8, 0x21#8, 0x34#8, 0x12#8], .ldXyNn .iy 0x1234#16),
    ([0x2A#8, 0x00#8, 0xC2#8], .ldHlIndNn 0xC200#16),
    ([0xED#8, 0x7B#8, 0x00#8, 0xC2#8], .ldDdIndNn .sp 0xC200#16),
    ([0xDD#8, 0x2A#8, 0x00#8, 0xC2#8], .ldXyIndNn .ix 0xC200#16),
    ([0x22#8, 0x00#8, 0xC2#8], .ldIndNnHl 0xC200#16),
    ([0xED#8, 0x53#8, 0x00#8, 0xC2#8], .ldIndNnDd 0xC200#16 .de),
    ([0xFD#8, 0x22#8, 0x00#8, 0xC2#8], .ldIndNnXy 0xC200#16 .iy),
    ([0xF9#8], .ldSpHl),
    ([0xDD#8, 0xF9#8], .ldSpXy .ix),
    ([0xF5#8], .pushQq .af),
    ([0xFD#8, 0xE5#8], .pushXy .iy),
    ([0xD1#8], .popQq .de),
    ([0xDD#8, 0xE1#8], .popXy .ix),
    ([0xEB#8], .exDeHl),
    ([0x08#8], .exAfAf),
    ([0xD9#8], .exx),
    ([0xE3#8], .exIndSpHl),
    ([0xFD#8, 0xE3#8], .exIndSpXy .iy),
    ([0xED#8, 0xA0#8], .ldi),
    ([0xED#8, 0xB0#8], .ldir),
    ([0xED#8, 0xA8#8], .ldd)] = true := by decide

theorem test_decode_load16_2 : decodesTo [
    ([0xED#8, 0xB8#8], .lddr),
    ([0xED#8, 0xA1#8], .cpi),
    ([0xED#8, 0xB1#8], .cpir),
    ([0xED#8, 0xA9#8], .cpd),
    ([0xED#8, 0xB9#8], .cpdr)] = true := by decide

theorem test_decode_alu8_1 : decodesTo [
    ([0x82#8], .addAR .d),
    ([0xC6#8, 0x27#8], .addAN 0x27#8),
    ([0x86#8], .addAIndHl),
    ([0xDD#8, 0x86#8, 0x05#8], .addAIdx .ix 0x05#8),
    ([0x8F#8], .adcAR .a),
    ([0xCE#8, 0x10#8], .adcAN 0x10#8),
    ([0x8E#8], .adcAIndHl),
    ([0xFD#8, 0x8E#8, 0xFF#8], .adcAIdx .iy 0xFF#8),
    ([0x93#8], .subR .e),
    ([0xD6#8, 0x43#8], .subN 0x43#8),
    ([0x96#8], .subIndHl),
    ([0xDD#8, 0x96#8, 0x01#8], .subIdx .ix 0x01#8),
    ([0x9C#8], .sbcAR .h),
    ([0xDE#8, 0x01#8], .sbcAN 0x01#8),
    ([0x9E#8], .sbcAIndHl),
    ([0xFD#8, 0x9E#8, 0x02#8], .sbcAIdx .iy 0x02#8),
    ([0xA5#8], .andR .l),
    ([0xE6#8, 0x0F#8], .andN 0x0F#8),
    ([0xA6#8], .andIndHl),
    ([0xDD#8, 0xA6#8, 0x03#8], .andIdx .ix 0x03#8),
    ([0xAF#8], .xorR .a),
    ([0xEE#8, 0xFF#8], .xorN 0xFF#8)] = true := by decide

theorem test_decode_alu8_2 : decodesTo [
    ([0xAE#8], .xorIndHl),
    ([0xFD#8, 0xAE#8, 0x04#8], .xorIdx .iy 0x04#8),
    ([0xB0#8], .orR .b),
    ([0xF6#8, 0x80#8], .orN 0x80#8),
    ([0xB6#8], .orIndHl),
    ([0xDD#8, 0xB6#8, 0x05#8], .orIdx .ix 0x05#8),
    ([0xB9#8], .cpR .c),
    ([0xFE#8, 0x42#8], .cpN 0x42#8),
    ([0xBE#8], .cpIndHl),
    ([0xFD#8, 0xBE#8, 0x06#8], .cpIdx .iy 0x06#8),
    ([0x3C#8], .incR .a),
    ([0x34#8], .incIndHl),
    ([0xDD#8, 0x34#8, 0x05#8], .incIdx .ix 0x05#8),
    ([0x05#8], .decR .b),
    ([0x35#8], .decIndHl),
    ([0xFD#8, 0x35#8, 0x80#8], .decIdx .iy 0x80#8),
    ([0x27#8], .daa),
    ([0x2F#8], .cpl),
    ([0xED#8, 0x44#8], .neg),
    ([0x3F#8], .ccf),
    ([0x37#8], .scf),
    ([0x00#8], .nop)] = true := by decide

theorem test_decode_alu8_3 : decodesTo [
    ([0x76#8], .halt),
    ([0xF3#8], .di),
    ([0xFB#8], .ei),
    ([0xED#8, 0x46#8], .im0),
    ([0xED#8, 0x56#8], .im1),
    ([0xED#8, 0x5E#8], .im2)] = true := by decide

theorem test_decode_alu16 : decodesTo [
    ([0x19#8], .addHlSs .de),
    ([0xED#8, 0x6A#8], .adcHlSs .hl),
    ([0xED#8, 0x72#8], .sbcHlSs .sp),
    ([0xFD#8, 0x29#8], .addXyPp .iy .xy),
    ([0x33#8], .incSs .sp),
    ([0xDD#8, 0x23#8], .incXy .ix),
    ([0x0B#8], .decSs .bc),
    ([0xFD#8, 0x2B#8], .decXy .iy)] = true := by decide

theorem test_decode_rotate_1 : decodesTo [
    ([0x07#8], .rlca),
    ([0x17#8], .rla),
    ([0x0F#8], .rrca),
    ([0x1F#8], .rra),
    ([0xCB#8, 0x00#8], .rlcR .b),
    ([0xCB#8, 0x06#8], .rlcIndHl),
    ([0xDD#8, 0xCB#8, 0x05#8, 0x06#8], .rlcIdx .ix 0x05#8),
    ([0xCB#8, 0x09#8], .rrcR .c),
    ([0xCB#8, 0x0E#8], .rrcIndHl),
    ([0xFD#8, 0xCB#8, 0x05#8, 0x0E#8], .rrcIdx .iy 0x05#8),
    ([0xCB#8, 0x12#8], .rlR .d),
    ([0xCB#8, 0x16#8], .rlIndHl),
    ([0xDD#8, 0xCB#8, 0x05#8, 0x16#8], .rlIdx .ix 0x05#8),
    ([0xCB#8, 0x1B#8], .rrR .e),
    ([0xCB#8, 0x1E#8], .rrIndHl),
    ([0xFD#8, 0xCB#8, 0x05#8, 0x1E#8], .rrIdx .iy 0x05#8),
    ([0xCB#8, 0x24#8], .slaR .h),
    ([0xCB#8, 0x26#8], .slaIndHl),
    ([0xDD#8, 0xCB#8, 0xFF#8, 0x26#8], .slaIdx .ix 0xFF#8),
    ([0xCB#8, 0x2D#8], .sraR .l),
    ([0xCB#8, 0x2E#8], .sraIndHl),
    ([0xFD#8, 0xCB#8, 0x80#8, 0x2E#8], .sraIdx .iy 0x80#8)] = true := by decide

theorem test_decode_rotate_2 : decodesTo [
    ([0xCB#8, 0x3F#8], .srlR .a),
    ([0xCB#8, 0x3E#8], .srlIndHl),
    ([0xDD#8, 0xCB#8, 0x7F#8, 0x3E#8], .srlIdx .ix 0x7F#8),
    ([0xED#8, 0x6F#8], .rld),
    ([0xED#8, 0x67#8], .rrd),
    ([0xCB#8, 0x78#8], .bitR 7#3 .b),
    ([0xCB#8, 0x4E#8], .bitIndHl 1#3),
    ([0xDD#8, 0xCB#8, 0x05#8, 0x46#8], .bitIdx 0#3 .ix 0x05#8),
    ([0xCB#8, 0xDF#8], .setR 3#3 .a),
    ([0xCB#8, 0xE6#8], .setIndHl 4#3),
    ([0xFD#8, 0xCB#8, 0x02#8, 0xEE#8], .setIdx 5#3 .iy 0x02#8),
    ([0xCB#8, 0xB4#8], .resR 6#3 .h),
    ([0xCB#8, 0xBE#8], .resIndHl 7#3),
    ([0xDD#8, 0xCB#8, 0x01#8, 0x96#8], .resIdx 2#3 .ix 0x01#8)] = true := by decide

theorem test_decode_jump : decodesTo [
    ([0xC3#8, 0x00#8, 0xC1#8], .jpNn 0xC100#16),
    ([0xE2#8, 0x34#8, 0x12#8], .jpCcNn .po 0x1234#16),
    ([0x18#8, 0xFE#8], .jrE 0xFE#8),
    ([0x38#8, 0x10#8], .jrCcE .c 0x10#8),
    ([0xE9#8], .jpIndHl),
    ([0xFD#8, 0xE9#8], .jpIndXy .iy),
    ([0x10#8, 0xFD#8], .djnzE 0xFD#8),
    ([0xCD#8, 0x10#8, 0xC0#8], .callNn 0xC010#16),
    ([0xFC#8, 0x34#8, 0x12#8], .callCcNn .m 0x1234#16),
    ([0xC9#8], .ret),
    ([0xED#8, 0x4D#8], .reti),
    ([0xED#8, 0x45#8], .retn),
    ([0xFF#8], .rstP 0x38#8),
    ([0xF0#8], .retCc .p)] = true := by decide

theorem test_decode_io : decodesTo [
    ([0xDB#8, 0xBF#8], .inAIndN 0xBF#8),
    ([0xED#8, 0x78#8], .inRIndC .a),
    ([0xD3#8, 0xBE#8], .outIndNA 0xBE#8),
    ([0xED#8, 0x51#8], .outIndCR .d),
    ([0xED#8, 0xA2#8], .ini),
    ([0xED#8, 0xB2#8], .inir),
    ([0xED#8, 0xAA#8], .ind),
    ([0xED#8, 0xBA#8], .indr),
    ([0xED#8, 0xA3#8], .outi),
    ([0xED#8, 0xB3#8], .otir),
    ([0xED#8, 0xAB#8], .outd),
    ([0xED#8, 0xBB#8], .otdr)] = true := by decide

/-! ### Single steps (95_test_vectors.md) -/

/-- The bytes `code` at PC and the bytes `cells`, as the vectors place them. -/
def coded (code : List Byte) (cells : List (Word × Byte)) (s : State) : State :=
  let t := cells.foldl (fun u c => u.memWrite c.1 c.2) s
  (code.foldl (fun (p : State × Word) b => (p.1.memWrite p.2 b, p.2 + 1#16)) (t, s.pc)).1

/-- The step answers a next state that passes the check. -/
def after (s : State) (check : State → Bool) : Bool :=
  match step s with
  | .next t => check t
  | .fault _ => false
  | .refused _ => false

theorem after_next {s : State} {check : State → Bool} (h : after s check = true) :
    ∃ t, step s = .next t ∧ check t = true := by
  unfold after at h
  split at h
  · rename_i t ht; exact ⟨t, ht, h⟩
  · cases h
  · cases h

/-- S, Z, H, PV, N, C are those of the byte; X3 and X5 are free (10_state.md R28). -/
def sixFlags (t : State) (f : Byte) : Bool :=
  let g := FlagReg.ofByte f
  t.main.f.s == g.s && t.main.f.z == g.z && t.main.f.h == g.h && t.main.f.pv == g.pv && t.main.f.n == g.n &&
    t.main.f.c == g.c

/-- The flags BIT does not leave free (44_rotate_bit.md R248). -/
def bitTestFlags (t : State) (f : Byte) : Bool :=
  let g := FlagReg.ofByte f
  t.main.f.z == g.z && t.main.f.h == g.h && t.main.f.n == g.n && t.main.f.c == g.c

/-- The flags block I/O does not leave free (46_io.md R274). -/
def blockIoFlags (t : State) (f : Byte) : Bool :=
  let g := FlagReg.ofByte f
  t.main.f.z == g.z && t.main.f.n == g.n

/-- V5 (R112). -/
theorem test_ld_r_hl_mirror : after (coded [0x46#8] [(0xC005#16, 0x3C#8)]
    { State.reset with pc := 0xC000#16, main := { RegSet.zero with h := 0xE0#8, l := 0x05#8 } })
    (fun t => t.bc == 0x3C00#16 && t.pc == 0xC001#16 && sixFlags t 0x00#8 &&
      t.lastCycles == 7) = true := by decide

/-- V8 (R114). -/
theorem test_ld_hl_n_top_of_ram : after (coded [0x36#8, 0xA5#8] []
    { State.reset with pc := 0xC000#16, main := { RegSet.zero with h := 0xDF#8, l := 0xFF#8 } })
    (fun t => t.pc == 0xC002#16 && sixFlags t 0x00#8 && t.memRead 0xDFFF#16 == 0xA5#8 &&
      t.memRead 0xFFFF#16 == 0x02#8 && t.lastCycles == 10) = true := by decide

/-- V14 (R120). -/
theorem test_ld_nn_a_mapper_register : after (coded [0x32#8, 0xFC#8, 0xFF#8] []
    { State.reset with pc := 0xC000#16, main := { RegSet.zero with a := 0x08#8 } })
    (fun t => t.pc == 0xC003#16 && sixFlags t 0x00#8 && t.memRead 0xFFFC#16 == 0x08#8 &&
      t.lastCycles == 13) = true := by decide

/-- V16 (R121). -/
theorem test_ld_r_idx_negative : after (coded [0xFD#8, 0x66#8, 0x80#8] [(0xDF90#16, 0x5C#8)]
    { State.reset with pc := 0xC000#16, iy := 0x0010#16 })
    (fun t => t.hl == 0x5C00#16 && t.pc == 0xC003#16 && sixFlags t 0x00#8 &&
      t.lastCycles == 19) = true := by decide

/-- V17 (R122). -/
theorem test_ld_idx_r : after (coded [0xFD#8, 0x73#8, 0x7F#8] []
    { State.reset with pc := 0xC000#16, iy := 0xC000#16, main := { RegSet.zero with e := 0x3E#8 } })
    (fun t => t.pc == 0xC003#16 && sixFlags t 0x00#8 && t.memRead 0xC07F#16 == 0x3E#8 &&
      t.lastCycles == 19) = true := by decide

/-- V19 (R125). -/
theorem test_ld_a_i : after (coded [0xED#8, 0x57#8] []
    { State.reset with pc := 0xC000#16, regI := 0x80#8, iff2 := true })
    (fun t => t.main.a == 0x80#8 && t.pc == 0xC002#16 && t.regR == 0x01#8 && sixFlags t 0x84#8 &&
      t.lastCycles == 9) = true := by decide

/-- V21 (R126). -/
theorem test_ld_a_r_counts_first : after (coded [0xED#8, 0x5F#8] []
    { State.reset with pc := 0xC000#16, regR := 0x7F#8 })
    (fun t => t.pc == 0xC002#16 && t.regR == 0x00#8 && sixFlags t 0x40#8 &&
      t.lastCycles == 9) = true := by decide

/-- V23 (R128). -/
theorem test_ld_r_a : after (coded [0xED#8, 0x4F#8] []
    { State.reset with pc := 0xC000#16, main := { RegSet.zero with a := 0x7F#8 } })
    (fun t => t.pc == 0xC002#16 && t.regR == 0x7F#8 && sixFlags t 0x00#8 &&
      t.lastCycles == 9) = true := by decide

/-- V24 (R129). -/
theorem test_ld_dd_nn : after (coded [0x01#8, 0x02#8, 0x03#8] []
    { State.reset with pc := 0xC000#16 })
    (fun t => t.bc == 0x0302#16 && t.pc == 0xC003#16 && sixFlags t 0x00#8 &&
      t.lastCycles == 10) = true := by decide

/-- V28 (R132). -/
theorem test_ld_dd_ind_nn : after (coded [0xED#8, 0x7B#8, 0xFF#8, 0xDF#8] [(0xDFFF#16, 0x11#8)]
    { State.reset with pc := 0xC000#16 })
    (fun t => t.sp == 0xED11#16 && t.pc == 0xC004#16 && sixFlags t 0x00#8 &&
      t.lastCycles == 20) = true := by decide

/-- V30 (R134). -/
theorem test_ld_ind_nn_hl : after (coded [0x22#8, 0xFF#8, 0xDF#8] []
    { State.reset with pc := 0xC000#16, main := { RegSet.zero with h := 0x12#8, l := 0x34#8 } })
    (fun t => t.pc == 0xC003#16 && sixFlags t 0x00#8 && t.memRead 0xDFFF#16 == 0x34#8 &&
      t.memRead 0xE000#16 == 0x12#8 && t.memRead 0xC000#16 == 0x12#8 && t.lastCycles == 16) = true := by decide

/-- V31 (R135). -/
theorem test_ld_ind_nn_dd : after (coded [0xED#8, 0x53#8, 0xFE#8, 0xFF#8] []
    { State.reset with pc := 0xC000#16, main := { RegSet.zero with d := 0x02#8, e := 0x01#8 } })
    (fun t => t.pc == 0xC004#16 && sixFlags t 0x00#8 && t.memRead 0xFFFE#16 == 0x01#8 &&
      t.memRead 0xFFFF#16 == 0x02#8 && t.lastCycles == 20) = true := by decide

/-- V36 (R139). -/
theorem test_push_af : after (coded [0xF5#8] []
    { State.reset with pc := 0xC000#16, main := { RegSet.zero with a := 0xAB#8, f := FlagReg.ofByte 0xFF#8 } })
    (fun t => t.sp == 0xDFEE#16 && t.pc == 0xC001#16 && sixFlags t 0xFF#8 && t.memRead 0xDFEE#16 == 0xFF#8 &&
      t.memRead 0xDFEF#16 == 0xAB#8 && t.lastCycles == 11) = true := by decide

/-- V37 (R139). -/
theorem test_push_below_ram : after (coded [0xD5#8] []
    { State.reset with pc := 0xC000#16, sp := 0xC001#16, main := { RegSet.zero with d := 0x55#8, e := 0x66#8 } })
    (fun t => t.sp == 0xBFFF#16 && t.pc == 0xC001#16 && sixFlags t 0x00#8 && t.memRead 0xC000#16 == 0x55#8 &&
      t.memRead 0xBFFF#16 == 0x00#8 && t.lastCycles == 11) = true := by decide

/-- V39 (R141). -/
theorem test_pop_af : after (coded [0xF1#8] [(0xDFEE#16, 0xFF#8), (0xDFEF#16, 0x00#8)]
    { State.reset with pc := 0xC000#16, sp := 0xDFEE#16 })
    (fun t => t.sp == 0xDFF0#16 && t.pc == 0xC001#16 && sixFlags t 0xFF#8 &&
      t.lastCycles == 10) = true := by decide

/-- V40 (R141). -/
theorem test_pop_wraps : after (coded [0xC1#8] []
    { State.reset with pc := 0xC000#16, sp := 0xFFFF#16 })
    (fun t => t.bc == 0x0002#16 && t.sp == 0x0001#16 && t.pc == 0xC001#16 && sixFlags t 0x00#8 &&
      t.lastCycles == 10) = true := by decide

/-- V43 (R144). -/
theorem test_ex_af : after (coded [0x08#8] []
    { State.reset with pc := 0xC000#16, main := { RegSet.zero with a := 0x12#8, f := FlagReg.ofByte 0x34#8 }, alt := { RegSet.zero with a := 0x56#8, f := FlagReg.ofByte 0x78#8 } })
    (fun t => t.main.a == 0x56#8 && t.pc == 0xC001#16 && sixFlags t 0x78#8 &&
      t.lastCycles == 4) = true := by decide

/-- V44 (R145). -/
theorem test_exx : after (coded [0xD9#8] []
    { State.reset with pc := 0xC000#16, main := { RegSet.zero with b := 0x01#8, c := 0x02#8, d := 0x03#8, e := 0x04#8, h := 0x05#8, l := 0x06#8 }, alt := { RegSet.zero with b := 0x0A#8, c := 0x0B#8, d := 0x0C#8, e := 0x0D#8, h := 0x0E#8, l := 0x0F#8 } })
    (fun t => t.bc == 0x0A0B#16 && t.de == 0x0C0D#16 && t.hl == 0x0E0F#16 && t.pc == 0xC001#16 &&
      sixFlags t 0x00#8 && t.lastCycles == 4) = true := by decide

/-- V45 (R146). -/
theorem test_ex_sp_hl : after (coded [0xE3#8] [(0xDFEE#16, 0x34#8), (0xDFEF#16, 0x12#8)]
    { State.reset with pc := 0xC000#16, sp := 0xDFEE#16, main := { RegSet.zero with h := 0xAB#8, l := 0xCD#8 } })
    (fun t => t.hl == 0x1234#16 && t.pc == 0xC001#16 && sixFlags t 0x00#8 && t.memRead 0xDFEE#16 == 0xCD#8 &&
      t.memRead 0xDFEF#16 == 0xAB#8 && t.lastCycles == 19) = true := by decide

/-- V46 (R147). -/
theorem test_ex_sp_ix : after (coded [0xDD#8, 0xE3#8] [(0xDFEE#16, 0x78#8), (0xDFEF#16, 0x56#8)]
    { State.reset with pc := 0xC000#16, sp := 0xDFEE#16, ix := 0x1234#16 })
    (fun t => t.ix == 0x5678#16 && t.pc == 0xC002#16 && sixFlags t 0x00#8 && t.memRead 0xDFEE#16 == 0x34#8 &&
      t.memRead 0xDFEF#16 == 0x12#8 && t.lastCycles == 23) = true := by decide

/-- V48 (R148). -/
theorem test_ldi_bc_wraps : after (coded [0xED#8, 0xA0#8] []
    { State.reset with pc := 0xC000#16, main := { RegSet.zero with h := 0xC0#8, l := 0x00#8, d := 0xC0#8, e := 0x00#8, b := 0x00#8, c := 0x00#8 } })
    (fun t => t.bc == 0xFFFF#16 && t.de == 0xC001#16 && t.hl == 0xC001#16 && t.pc == 0xC002#16 &&
      sixFlags t 0x04#8 && t.lastCycles == 16) = true := by decide

/-- V50 (R150). -/
theorem test_ldd : after (coded [0xED#8, 0xA8#8] [(0xC105#16, 0x66#8)]
    { State.reset with pc := 0xC000#16, main := { RegSet.zero with h := 0xC1#8, l := 0x05#8, d := 0xC2#8, e := 0x05#8, b := 0x00#8, c := 0x02#8 } })
    (fun t => t.bc == 0x0001#16 && t.de == 0xC204#16 && t.hl == 0xC104#16 && t.pc == 0xC002#16 &&
      sixFlags t 0x04#8 && t.memRead 0xC205#16 == 0x66#8 && t.lastCycles == 16) = true := by decide

/-- V53 (R152). -/
theorem test_cpi_last : after (coded [0xED#8, 0xA1#8] [(0xC100#16, 0x01#8)]
    { State.reset with pc := 0xC000#16, main := { RegSet.zero with a := 0x10#8, h := 0xC1#8, l := 0x00#8, b := 0x00#8, c := 0x01#8 } })
    (fun t => t.bc == 0x0000#16 && t.hl == 0xC101#16 && t.pc == 0xC002#16 && sixFlags t 0x12#8 &&
      t.lastCycles == 16) = true := by decide

/-- V55 (R154). -/
theorem test_cpd : after (coded [0xED#8, 0xA9#8] [(0xC100#16, 0x30#8)]
    { State.reset with pc := 0xC000#16, main := { RegSet.zero with a := 0x20#8, h := 0xC1#8, l := 0x00#8, b := 0x00#8, c := 0x01#8 } })
    (fun t => t.bc == 0x0000#16 && t.hl == 0xC0FF#16 && t.pc == 0xC002#16 && sixFlags t 0x82#8 &&
      t.lastCycles == 16) = true := by decide

/-- V59 (R163). -/
theorem test_add_r_overflow : after (coded [0x80#8] []
    { State.reset with pc := 0xC000#16, main := { RegSet.zero with a := 0x80#8, b := 0x80#8 }, alt := { RegSet.zero with a := 0x00#8 } })
    (fun t => t.main.a == 0x00#8 && t.pc == 0xC001#16 && sixFlags t 0x45#8 &&
      t.lastCycles == 4) = true := by decide

/-- V64 (R168). -/
theorem test_adc_n : after (coded [0xCE#8, 0x01#8] []
    { State.reset with pc := 0xC000#16, main := { RegSet.zero with a := 0x7E#8, f := FlagReg.ofByte 0x01#8 } })
    (fun t => t.main.a == 0x80#8 && t.pc == 0xC002#16 && sixFlags t 0x94#8 &&
      t.lastCycles == 7) = true := by decide

/-- V66 (R170). -/
theorem test_adc_idx : after (coded [0xFD#8, 0x8E#8, 0x02#8] [(0xC102#16, 0x0F#8)]
    { State.reset with pc := 0xC000#16, iy := 0xC100#16, main := { RegSet.zero with a := 0xF0#8, f := FlagReg.ofByte 0x01#8 } })
    (fun t => t.main.a == 0x00#8 && t.pc == 0xC003#16 && sixFlags t 0x51#8 &&
      t.lastCycles == 19) = true := by decide

/-- V67 (R171). -/
theorem test_sub_r_overflow : after (coded [0x92#8] []
    { State.reset with pc := 0xC000#16, main := { RegSet.zero with a := 0x80#8, d := 0x01#8 } })
    (fun t => t.main.a == 0x7F#8 && t.pc == 0xC001#16 && sixFlags t 0x16#8 &&
      t.lastCycles == 4) = true := by decide

/-- V69 (R172). -/
theorem test_sub_n_borrow : after (coded [0xD6#8, 0x01#8] []
    { State.reset with pc := 0xC000#16, main := { RegSet.zero with a := 0x00#8 } })
    (fun t => t.main.a == 0xFF#8 && t.pc == 0xC002#16 && sixFlags t 0x93#8 &&
      t.lastCycles == 7) = true := by decide

/-- V73 (R176). -/
theorem test_sbc_n : after (coded [0xDE#8, 0x00#8] []
    { State.reset with pc := 0xC000#16, main := { RegSet.zero with a := 0x80#8, f := FlagReg.ofByte 0x01#8 } })
    (fun t => t.main.a == 0x7F#8 && t.pc == 0xC002#16 && sixFlags t 0x16#8 &&
      t.lastCycles == 7) = true := by decide

/-- V75 (R178). -/
theorem test_sbc_idx : after (coded [0xFD#8, 0x9E#8, 0x00#8] [(0xC100#16, 0xFF#8)]
    { State.reset with pc := 0xC000#16, iy := 0xC100#16, main := { RegSet.zero with a := 0x7F#8, f := FlagReg.ofByte 0x01#8 } })
    (fun t => t.pc == 0xC003#16 && sixFlags t 0x13#8 && t.lastCycles == 19) = true := by decide

/-- V76 (R179). -/
theorem test_and_r : after (coded [0xA0#8] []
    { State.reset with pc := 0xC000#16, main := { RegSet.zero with a := 0xF0#8, b := 0x0F#8 } })
    (fun t => t.main.a == 0x00#8 && t.pc == 0xC001#16 && sixFlags t 0x54#8 &&
      t.lastCycles == 4) = true := by decide

/-- V82 (R185). -/
theorem test_xor_hl : after (coded [0xAE#8] [(0xC100#16, 0xAA#8)]
    { State.reset with pc := 0xC000#16, main := { RegSet.zero with a := 0x55#8, h := 0xC1#8, l := 0x00#8 } })
    (fun t => t.main.a == 0xFF#8 && t.pc == 0xC001#16 && sixFlags t 0x84#8 &&
      t.lastCycles == 7) = true := by decide

/-- V84 (R187). -/
theorem test_or_r : after (coded [0xB0#8] []
    { State.reset with pc := 0xC000#16, main := { RegSet.zero with a := 0x00#8, b := 0x00#8, f := FlagReg.ofByte 0xFF#8 } })
    (fun t => t.pc == 0xC001#16 && sixFlags t 0x44#8 && t.lastCycles == 4) = true := by decide

/-- V90 (R192). -/
theorem test_cp_n_overflow : after (coded [0xFE#8, 0x01#8] []
    { State.reset with pc := 0xC000#16, main := { RegSet.zero with a := 0x80#8 } })
    (fun t => t.pc == 0xC002#16 && sixFlags t 0x16#8 && t.lastCycles == 7) = true := by decide

/-- V94 (R195). -/
theorem test_inc_r_wraps : after (coded [0x04#8] []
    { State.reset with pc := 0xC000#16, main := { RegSet.zero with b := 0xFF#8, f := FlagReg.ofByte 0x01#8 } })
    (fun t => t.bc == 0x0000#16 && t.pc == 0xC001#16 && sixFlags t 0x51#8 &&
      t.lastCycles == 4) = true := by decide

/-- V98 (R197). -/
theorem test_inc_idx : after (coded [0xFD#8, 0x34#8, 0x01#8] [(0xC101#16, 0x7F#8)]
    { State.reset with pc := 0xC000#16, iy := 0xC100#16 })
    (fun t => t.pc == 0xC003#16 && sixFlags t 0x94#8 && t.memRead 0xC101#16 == 0x80#8 &&
      t.lastCycles == 23) = true := by decide

/-- V101 (R198). -/
theorem test_dec_r_wraps : after (coded [0x15#8] []
    { State.reset with pc := 0xC000#16, main := { RegSet.zero with d := 0x00#8, f := FlagReg.ofByte 0x01#8 } })
    (fun t => t.de == 0xFF00#16 && t.pc == 0xC001#16 && sixFlags t 0x93#8 &&
      t.lastCycles == 4) = true := by decide

/-- V103 (R200). -/
theorem test_dec_idx : after (coded [0xDD#8, 0x35#8, 0xFE#8] [(0xC0FE#16, 0x00#8)]
    { State.reset with pc := 0xC000#16, ix := 0xC100#16 })
    (fun t => t.pc == 0xC003#16 && sixFlags t 0x92#8 && t.memRead 0xC0FE#16 == 0xFF#8 &&
      t.lastCycles == 23) = true := by decide

/-- V105 (R201). -/
theorem test_daa_add : after (coded [0x27#8] []
    { State.reset with pc := 0xC000#16, main := { RegSet.zero with a := 0x9A#8 } })
    (fun t => t.main.a == 0x00#8 && t.pc == 0xC001#16 && sixFlags t 0x55#8 &&
      t.lastCycles == 4) = true := by decide

/-- V106 (R201). -/
theorem test_daa_sub : after (coded [0x27#8] []
    { State.reset with pc := 0xC000#16, main := { RegSet.zero with a := 0xFF#8, f := FlagReg.ofByte 0x13#8 } })
    (fun t => t.main.a == 0x99#8 && t.pc == 0xC001#16 && sixFlags t 0x87#8 &&
      t.lastCycles == 4) = true := by decide

/-- V108 (R202). -/
theorem test_cpl : after (coded [0x2F#8] []
    { State.reset with pc := 0xC000#16, main := { RegSet.zero with a := 0x5A#8 } })
    (fun t => t.main.a == 0xA5#8 && t.pc == 0xC001#16 && sixFlags t 0x12#8 &&
      t.lastCycles == 4) = true := by decide

/-- V110 (R203). -/
theorem test_neg_min : after (coded [0xED#8, 0x44#8] []
    { State.reset with pc := 0xC000#16, main := { RegSet.zero with a := 0x80#8 } })
    (fun t => t.pc == 0xC002#16 && sixFlags t 0x87#8 && t.lastCycles == 8) = true := by decide

/-- V112 (R204). -/
theorem test_ccf : after (coded [0x3F#8] []
    { State.reset with pc := 0xC000#16, main := { RegSet.zero with f := FlagReg.ofByte 0x01#8 } })
    (fun t => t.pc == 0xC001#16 && sixFlags t 0x10#8 && t.lastCycles == 4) = true := by decide

/-- V114 (R205). -/
theorem test_scf : after (coded [0x37#8] []
    { State.reset with pc := 0xC000#16, main := { RegSet.zero with f := FlagReg.ofByte 0x12#8 } })
    (fun t => t.pc == 0xC001#16 && sixFlags t 0x01#8 && t.lastCycles == 4) = true := by decide

/-- V118 (R209). -/
theorem test_ei : after (coded [0xFB#8] []
    { State.reset with pc := 0xC000#16 })
    (fun t => t.pc == 0xC001#16 && sixFlags t 0x00#8 && t.iff1 == true && t.iff2 == true &&
      t.lastCycles == 4) = true := by decide

/-- V121 (R212). -/
theorem test_im2 : after (coded [0xED#8, 0x5E#8] []
    { State.reset with pc := 0xC000#16 })
    (fun t => t.pc == 0xC002#16 && sixFlags t 0x00#8 && t.im == .mode2 && t.lastCycles == 8) = true := by decide

/-- V123 (R213). -/
theorem test_add_hl_keeps_szp : after (coded [0x09#8] []
    { State.reset with pc := 0xC000#16, main := { RegSet.zero with h := 0x0F#8, l := 0xFF#8, b := 0x00#8, c := 0x01#8, f := FlagReg.ofByte 0xC4#8 } })
    (fun t => t.hl == 0x1000#16 && t.pc == 0xC001#16 && sixFlags t 0xD4#8 &&
      t.lastCycles == 11) = true := by decide

/-- V125 (R214). -/
theorem test_adc_hl : after (coded [0xED#8, 0x4A#8] []
    { State.reset with pc := 0xC000#16, main := { RegSet.zero with h := 0x7F#8, l := 0xFF#8, b := 0x00#8, c := 0x00#8, f := FlagReg.ofByte 0x01#8 } })
    (fun t => t.hl == 0x8000#16 && t.pc == 0xC002#16 && sixFlags t 0x94#8 &&
      t.lastCycles == 15) = true := by decide

/-- V129 (R215). -/
theorem test_sbc_hl_sp : after (coded [0xED#8, 0x72#8] []
    { State.reset with pc := 0xC000#16, sp := 0x0001#16, main := { RegSet.zero with h := 0x80#8, l := 0x00#8 } })
    (fun t => t.hl == 0x7FFF#16 && t.pc == 0xC002#16 && sixFlags t 0x16#8 &&
      t.lastCycles == 15) = true := by decide

/-- V131 (R216). -/
theorem test_add_iy_iy : after (coded [0xFD#8, 0x29#8] []
    { State.reset with pc := 0xC000#16, iy := 0x4000#16 })
    (fun t => t.iy == 0x8000#16 && t.pc == 0xC002#16 && sixFlags t 0x00#8 &&
      t.lastCycles == 15) = true := by decide

/-- V132 (R217). -/
theorem test_inc_sp : after (coded [0x33#8] []
    { State.reset with pc := 0xC000#16, sp := 0xFFFF#16 })
    (fun t => t.sp == 0x0000#16 && t.pc == 0xC001#16 && sixFlags t 0x00#8 &&
      t.lastCycles == 6) = true := by decide

/-- V136 (R220). -/
theorem test_dec_iy : after (coded [0xFD#8, 0x2B#8] []
    { State.reset with pc := 0xC000#16, iy := 0x0001#16 })
    (fun t => t.iy == 0x0000#16 && t.pc == 0xC002#16 && sixFlags t 0x00#8 &&
      t.lastCycles == 10) = true := by decide

/-- V137 (R221). -/
theorem test_rlca : after (coded [0x07#8] []
    { State.reset with pc := 0xC000#16, main := { RegSet.zero with a := 0x81#8 } })
    (fun t => t.main.a == 0x03#8 && t.pc == 0xC001#16 && sixFlags t 0x01#8 &&
      t.lastCycles == 4) = true := by decide

/-- V140 (R224). -/
theorem test_rra : after (coded [0x1F#8] []
    { State.reset with pc := 0xC000#16, main := { RegSet.zero with a := 0x01#8, f := FlagReg.ofByte 0x01#8 } })
    (fun t => t.main.a == 0x80#8 && t.pc == 0xC001#16 && sixFlags t 0x01#8 &&
      t.lastCycles == 4) = true := by decide

/-- V141 (R225). -/
theorem test_rlc_r : after (coded [0xCB#8, 0x00#8] []
    { State.reset with pc := 0xC000#16, main := { RegSet.zero with b := 0x81#8 } })
    (fun t => t.bc == 0x0300#16 && t.pc == 0xC002#16 && sixFlags t 0x05#8 &&
      t.lastCycles == 8) = true := by decide

/-- V147 (R230). -/
theorem test_rrc_idx : after (coded [0xFD#8, 0xCB#8, 0xFF#8, 0x0E#8] [(0xC0FF#16, 0x03#8)]
    { State.reset with pc := 0xC000#16, iy := 0xC100#16 })
    (fun t => t.pc == 0xC004#16 && sixFlags t 0x85#8 && t.memRead 0xC0FF#16 == 0x81#8 &&
      t.lastCycles == 23) = true := by decide

/-- V149 (R232). -/
theorem test_rl_hl : after (coded [0xCB#8, 0x16#8] [(0xC100#16, 0x55#8)]
    { State.reset with pc := 0xC000#16, main := { RegSet.zero with h := 0xC1#8, l := 0x00#8 } })
    (fun t => t.pc == 0xC002#16 && sixFlags t 0x84#8 && t.memRead 0xC100#16 == 0xAA#8 &&
      t.lastCycles == 15) = true := by decide

/-- V151 (R234). -/
theorem test_rr_r : after (coded [0xCB#8, 0x18#8] []
    { State.reset with pc := 0xC000#16, main := { RegSet.zero with b := 0x01#8 } })
    (fun t => t.bc == 0x0000#16 && t.pc == 0xC002#16 && sixFlags t 0x45#8 &&
      t.lastCycles == 8) = true := by decide

/-- V155 (R238). -/
theorem test_sla_hl : after (coded [0xCB#8, 0x26#8] [(0xC100#16, 0x41#8)]
    { State.reset with pc := 0xC000#16, main := { RegSet.zero with h := 0xC1#8, l := 0x00#8 } })
    (fun t => t.pc == 0xC002#16 && sixFlags t 0x84#8 && t.memRead 0xC100#16 == 0x82#8 &&
      t.lastCycles == 15) = true := by decide

/-- V157 (R240). -/
theorem test_sra_r : after (coded [0xCB#8, 0x28#8] []
    { State.reset with pc := 0xC000#16, main := { RegSet.zero with b := 0x81#8 } })
    (fun t => t.bc == 0xC000#16 && t.pc == 0xC002#16 && sixFlags t 0x85#8 &&
      t.lastCycles == 8) = true := by decide

/-- V162 (R244). -/
theorem test_srl_hl : after (coded [0xCB#8, 0x3E#8] [(0xC100#16, 0xFF#8)]
    { State.reset with pc := 0xC000#16, main := { RegSet.zero with h := 0xC1#8, l := 0x00#8 } })
    (fun t => t.pc == 0xC002#16 && sixFlags t 0x01#8 && t.memRead 0xC100#16 == 0x7F#8 &&
      t.lastCycles == 15) = true := by decide

/-- V164 (R246). -/
theorem test_rld : after (coded [0xED#8, 0x6F#8] [(0xC000#16, 0x31#8)]
    { State.reset with pc := 0xC100#16, main := { RegSet.zero with a := 0x7A#8, h := 0xC0#8, l := 0x00#8 } })
    (fun t => t.main.a == 0x73#8 && t.pc == 0xC102#16 && sixFlags t 0x00#8 &&
      t.memRead 0xC000#16 == 0x1A#8 && t.lastCycles == 18) = true := by decide

/-- V165 (R247). -/
theorem test_rrd : after (coded [0xED#8, 0x67#8] [(0xC000#16, 0x20#8)]
    { State.reset with pc := 0xC100#16, main := { RegSet.zero with a := 0x84#8, h := 0xC0#8, l := 0x00#8 } })
    (fun t => t.main.a == 0x80#8 && t.pc == 0xC102#16 && sixFlags t 0x80#8 &&
      t.memRead 0xC000#16 == 0x42#8 && t.lastCycles == 18) = true := by decide

/-- V167 (R248). -/
theorem test_bit_r : after (coded [0xCB#8, 0x47#8] []
    { State.reset with pc := 0xC000#16, main := { RegSet.zero with a := 0xFE#8, f := FlagReg.ofByte 0x01#8 } })
    (fun t => t.pc == 0xC002#16 && bitTestFlags t 0x51#8 && t.lastCycles == 8) = true := by decide

/-- V169 (R250). -/
theorem test_bit_idx : after (coded [0xFD#8, 0xCB#8, 0xFF#8, 0x5E#8] [(0xC0FF#16, 0x08#8)]
    { State.reset with pc := 0xC000#16, iy := 0xC100#16 })
    (fun t => t.pc == 0xC004#16 && bitTestFlags t 0x10#8 && t.lastCycles == 20) = true := by decide

/-- V173 (R253). -/
theorem test_set_idx : after (coded [0xDD#8, 0xCB#8, 0x05#8, 0xDE#8] [(0xC105#16, 0x00#8)]
    { State.reset with pc := 0xC000#16, ix := 0xC100#16 })
    (fun t => t.pc == 0xC004#16 && sixFlags t 0x00#8 && t.memRead 0xC105#16 == 0x08#8 &&
      t.lastCycles == 23) = true := by decide

/-- V176 (R256). -/
theorem test_res_idx : after (coded [0xFD#8, 0xCB#8, 0x00#8, 0xAE#8] [(0xC100#16, 0xFF#8)]
    { State.reset with pc := 0xC000#16, iy := 0xC100#16 })
    (fun t => t.pc == 0xC004#16 && sixFlags t 0x00#8 && t.memRead 0xC100#16 == 0xDF#8 &&
      t.lastCycles == 23) = true := by decide

/-- V181 (R258). -/
theorem test_jp_cc_not_taken : after (coded [0xE2#8, 0x00#8, 0xD0#8] []
    { State.reset with pc := 0xC000#16, main := { RegSet.zero with f := FlagReg.ofByte 0x04#8 } })
    (fun t => t.pc == 0xC003#16 && sixFlags t 0x04#8 && t.lastCycles == 10) = true := by decide

/-- V184 (R259). -/
theorem test_jr_backwards : after (coded [0x18#8, 0x80#8] []
    { State.reset with pc := 0xC000#16 })
    (fun t => t.pc == 0xBF82#16 && sixFlags t 0x00#8 && t.lastCycles == 12) = true := by decide

/-- V187 (R260). -/
theorem test_jr_cc_taken : after (coded [0x38#8, 0xF0#8] []
    { State.reset with pc := 0xC000#16, main := { RegSet.zero with f := FlagReg.ofByte 0x01#8 } })
    (fun t => t.pc == 0xBFF2#16 && sixFlags t 0x01#8 && t.lastCycles == 12) = true := by decide

/-- V193 (R263). -/
theorem test_djnz_wraps : after (coded [0x10#8, 0x05#8] []
    { State.reset with pc := 0xC000#16, main := { RegSet.zero with b := 0x00#8 } })
    (fun t => t.bc == 0xFF00#16 && t.pc == 0xC007#16 && sixFlags t 0x00#8 &&
      t.lastCycles == 13) = true := by decide

/-- V195 (R265). -/
theorem test_call_cc_taken : after (coded [0xDC#8, 0x00#8, 0xD0#8] []
    { State.reset with pc := 0xC000#16, main := { RegSet.zero with f := FlagReg.ofByte 0x01#8 } })
    (fun t => t.sp == 0xDFEE#16 && t.pc == 0xD000#16 && sixFlags t 0x01#8 && t.memRead 0xDFEE#16 == 0x03#8 &&
      t.memRead 0xDFEF#16 == 0xC0#8 && t.lastCycles == 17) = true := by decide

/-- V199 (R270). -/
theorem test_ret_cc_not_taken : after (coded [0xC0#8] [(0xDFEE#16, 0x00#8), (0xDFEF#16, 0x01#8)]
    { State.reset with pc := 0xC000#16, sp := 0xDFEE#16, main := { RegSet.zero with f := FlagReg.ofByte 0x40#8 } })
    (fun t => t.pc == 0xC001#16 && sixFlags t 0x40#8 && t.lastCycles == 5) = true := by decide

/-- V201 (R268). -/
theorem test_retn : after (coded [0xED#8, 0x45#8] [(0xDFEE#16, 0x34#8), (0xDFEF#16, 0x12#8)]
    { State.reset with pc := 0xC000#16, sp := 0xDFEE#16, iff1 := false, iff2 := true })
    (fun t => t.sp == 0xDFF0#16 && t.pc == 0x1234#16 && sixFlags t 0x00#8 && t.iff1 == true &&
      t.lastCycles == 14) = true := by decide

/-- V202 (R269). -/
theorem test_rst : after (coded [0xFF#8] []
    { State.reset with pc := 0xC000#16 })
    (fun t => t.sp == 0xDFEE#16 && t.pc == 0x0038#16 && sixFlags t 0x00#8 && t.memRead 0xDFEE#16 == 0x01#8 &&
      t.memRead 0xDFEF#16 == 0xC0#8 && t.lastCycles == 11) = true := by decide

/-- V205 (R272). -/
theorem test_in_a_n : after (coded [0xDB#8, 0x34#8] []
    { State.reset with pc := 0xC000#16, ioInput := [0x6E#8], main := { RegSet.zero with a := 0x12#8 } })
    (fun t => t.main.a == 0x6E#8 && t.pc == 0xC002#16 && sixFlags t 0x00#8 &&
      t.lastCycles == 11) = true := by decide

/-- V207 (R273). -/
theorem test_in_r_c : after (coded [0xED#8, 0x50#8] []
    { State.reset with pc := 0xC000#16, ioInput := [0x81#8], main := { RegSet.zero with b := 0x01#8, c := 0xBE#8, f := FlagReg.ofByte 0x01#8 } })
    (fun t => t.de == 0x8100#16 && t.pc == 0xC002#16 && sixFlags t 0x85#8 &&
      t.lastCycles == 12) = true := by decide

/-- V208 (R274). -/
theorem test_ini : after (coded [0xED#8, 0xA2#8] []
    { State.reset with pc := 0xC100#16, ioInput := [0x55#8], main := { RegSet.zero with b := 0x02#8, c := 0xBE#8, h := 0xC0#8, l := 0x00#8 } })
    (fun t => t.bc == 0x01BE#16 && t.hl == 0xC001#16 && t.pc == 0xC102#16 && blockIoFlags t 0x02#8 &&
      t.memRead 0xC000#16 == 0x55#8 && t.lastCycles == 16) = true := by decide

/-- V210 (R276). -/
theorem test_ind : after (coded [0xED#8, 0xAA#8] []
    { State.reset with pc := 0xC100#16, ioInput := [0x77#8], main := { RegSet.zero with b := 0x01#8, c := 0xBE#8, h := 0xC0#8, l := 0x01#8 } })
    (fun t => t.bc == 0x00BE#16 && t.hl == 0xC000#16 && t.pc == 0xC102#16 && blockIoFlags t 0x42#8 &&
      t.memRead 0xC001#16 == 0x77#8 && t.lastCycles == 16) = true := by decide

/-- V213 (R279). -/
theorem test_out_c_r : after (coded [0xED#8, 0x51#8] []
    { State.reset with pc := 0xC000#16, main := { RegSet.zero with b := 0x01#8, c := 0xBE#8, d := 0x99#8 } })
    (fun t => t.pc == 0xC002#16 && sixFlags t 0x00#8 && t.ioEvents == [.write 0x01BE#16 0x99#8] &&
      t.lastCycles == 12) = true := by decide

/-- V215 (R280). -/
theorem test_outi : after (coded [0xED#8, 0xA3#8] [(0xC000#16, 0x3F#8)]
    { State.reset with pc := 0xC100#16, main := { RegSet.zero with b := 0x01#8, c := 0xBE#8, h := 0xC0#8, l := 0x00#8 } })
    (fun t => t.bc == 0x00BE#16 && t.hl == 0xC001#16 && t.pc == 0xC102#16 && blockIoFlags t 0x42#8 &&
      t.ioEvents == [.write 0x00BE#16 0x3F#8] && t.lastCycles == 16) = true := by decide

/-- V217 (R282). -/
theorem test_outd : after (coded [0xED#8, 0xAB#8] [(0xC001#16, 0x3F#8)]
    { State.reset with pc := 0xC100#16, main := { RegSet.zero with b := 0x01#8, c := 0xBE#8, h := 0xC0#8, l := 0x01#8 } })
    (fun t => t.bc == 0x00BE#16 && t.hl == 0xC000#16 && t.pc == 0xC102#16 && blockIoFlags t 0x42#8 &&
      t.ioEvents == [.write 0x00BE#16 0x3F#8] && t.lastCycles == 16) = true := by decide

/-- V219 (R285). -/
theorem test_unimplemented_cb : after (coded [0xCB#8, 0x30#8] []
    { State.reset with pc := 0xC000#16 })
    (fun t => t.fault == some ⟨0xC000#16, [0xCB#8, 0x30#8]⟩ && t.pc == 0xC000#16 &&
      t.lastCycles == 0) = true := by decide +kernel

/-- V223 (R285). -/
theorem test_unimplemented_dd : after (coded [0xDD#8, 0xDD#8, 0x00#8] []
    { State.reset with pc := 0xC000#16 })
    (fun t => t.fault == some ⟨0xC000#16, [0xDD#8, 0xDD#8]⟩ && t.pc == 0xC000#16 &&
      t.lastCycles == 0) = true := by decide +kernel

/-- V225 (R285). -/
theorem test_unimplemented_xycb : after (coded [0xFD#8, 0xCB#8, 0x00#8, 0x36#8] []
    { State.reset with pc := 0xC000#16 })
    (fun t => t.fault == some ⟨0xC000#16, [0xFD#8, 0xCB#8, 0x00#8, 0x36#8]⟩ && t.pc == 0xC000#16 &&
      t.lastCycles == 0) = true := by decide +kernel

/-- V226 (R31). -/
theorem test_refresh_wraps : after (coded [0x00#8] []
    { State.reset with pc := 0xC000#16, regR := 0x7F#8 })
    (fun t => t.pc == 0xC001#16 && t.regR == 0x00#8 && sixFlags t 0x00#8 &&
      t.lastCycles == 4) = true := by decide

/-! ### Memory decoder and cartridge (95_test_vectors.md M1-M12, S3-S6) -/

/-- A machine with three one-page images would need 48 KB: this one keeps its image short and tests the
pages beyond it through P_ROM_OOB given per offset. -/
def paged : State :=
  { State.reset with cfg := { Params.reference with
      romOob := ⟨0x00#8, [(0x0400, 0xA0#8), (0x4000, 0xA1#8), (0x8000, 0xA2#8), (0x14400, 0xA5#8), (0xC000, 0xA3#8)]⟩ } }

/-- The same machine with the AlternateChecksum variant. -/
def pagedAlt : State := { paged with mc := { paged.mc with variant := .alternateChecksum } }

/-- M2: a page select moves slot 0 above 0x0400 and never below it. -/
theorem test_page_select_slot0 : let t := paged.memWrite 0xFFFD#16 0x45#8
    t.memRead 0x0400#16 = 0xA5#8 ∧ t.memRead 0x03FF#16 = 0x00#8 ∧ t.memRead 0xFFFD#16 = 0x45#8 := by decide

/-- M3 and R58: the page mask of a small image is 0x1F. -/
theorem test_page_mask : let t := paged.memWrite 0xFFFE#16 0x23#8
    t.memRead 0x4000#16 = 0xA3#8 ∧ paged.memRead 0x4000#16 = 0xA1#8 := by decide

/-- M4, M5: cartridge RAM banks; bit 1 of RAM-control has no effect; ROM is not written. -/
theorem test_cartridge_ram_banks :
    let t := (paged.memWrite 0xFFFC#16 0x08#8).memWrite 0x8000#16 0x5A#8
    let u := (t.memWrite 0xFFFC#16 0x00#8).memWrite 0x8000#16 0x11#8
    t.memRead 0x8000#16 = 0x5A#8 ∧ u.memRead 0x8000#16 = 0xA2#8 ∧
      (u.memWrite 0xFFFC#16 0x0A#8).memRead 0x8000#16 = 0x5A#8 ∧
      (u.memWrite 0xFFFC#16 0x0B#8).memRead 0x8000#16 = 0x00#8 := by decide

/-- M6: the RAM windows mirror each other but for their top 4 bytes. -/
theorem test_ram_mirror :
    (paged.memWrite 0xC123#16 0x77#8).memRead 0xE123#16 = 0x77#8 ∧
      (paged.memWrite 0xFFFB#16 0x66#8).memRead 0xDFFB#16 = 0x66#8 ∧
      (paged.memWrite 0xDFFC#16 0x11#8).memRead 0xFFFC#16 = 0x00#8 ∧
      (paged.memWrite 0xFFFF#16 0x09#8).memRead 0xDFFF#16 = 0x00#8 := by decide

/-- M7, M8: the AlternateChecksum page selects, over whole slots; no cartridge RAM. -/
theorem test_alternate_pages :
    let t := (pagedAlt.memWrite 0x4000#16 0x03#8).memWrite 0xFFFC#16 0x08#8
    t.memRead 0x4000#16 = 0xA3#8 ∧ t.memRead 0x8000#16 = 0xA2#8 ∧
      (t.memWrite 0x8001#16 0x99#8).memRead 0x8001#16 = 0x00#8 ∧
      (t.memWrite 0x0000#16 0x02#8).memRead 0x0000#16 = 0xA2#8 := by decide

/-- S5: the detection sums. -/
theorem test_checksum_rule :
    checksumVariant 0x34#8 0x12#8 0xCC#8 0xED#8 = .alternateChecksum ∧
      checksumVariant 0x01#8 0x00#8 0xFF#8 0xFF#8 = .alternateChecksum ∧
      checksumVariant 0x01#8 0x01#8 0x01#8 0x01#8 = .standard ∧
      checksumVariant 0x00#8 0x00#8 0x00#8 0x00#8 = .alternateChecksum := by decide

/-- S4, M10: loading exactly 512 bytes stores an empty image; loading three stores three. -/
theorem test_header_stripped :
    (State.reset.loadCartridge (List.replicate 512 0xEE#8)).dumpCartridgeData = [] ∧
      (State.reset.loadCartridge [1#8, 2#8, 3#8]).dumpCartridgeData = [1#8, 2#8, 3#8] ∧
      (State.reset.loadCartridge [1#8, 2#8, 3#8]).cartLoaded = true := by decide +kernel

/-- M12: the accessors outside the address space. -/
theorem test_accessors_outside : paged.mcRead 0x10000 = 0#8 ∧ paged.mcRead (-1) = 0#8 ∧
    paged.mcWrite 0x10000 5 = paged ∧ paged.mcRead 0x4000 = 0xA1#8 := by decide

/-- A write of what an unwritten byte reads as removes the entry: equal memories are equal data. -/
theorem test_memory_canonical :
    Memory.write (Memory.write (Memory.write [] 5 1#8) 3 2#8) 5 0#8 = [(3, 2#8)] ∧
      Memory.wf (Memory.write (Memory.write [] 5 1#8) 3 2#8) = true ∧ Memory.wf [(5, 1#8), (3, 2#8)] = false := by
  decide

/-! ### Interrupts, halt and fault (95_test_vectors.md E1-E7, K4-K8) -/

/-- The machine with interrupts on, both IFFs set, PC = 0xC000. -/
def ready : State :=
  { State.reset with cfg := { Params.reference with hasInterrupts := true }, iff1 := true, iff2 := true, pc := 0xC000#16 }

/-- E1: mode 1 wakes a halted machine. -/
theorem test_int_mode1 : after ({ ready with im := .mode1, halted := true, pc := 0xC005#16 }.setInt true 0xFF#8)
    (fun t => t.halted == false && t.iff1 == false && t.iff2 == false && t.memRead 0xDFEF#16 == 0xC0#8 &&
      t.memRead 0xDFEE#16 == 0x05#8 && t.sp == 0xDFEE#16 && t.pc == 0x0038#16 && t.lastCycles == 13 &&
      t.regR == 1#8) = true := by decide

/-- E2: the NMI, then RETN. -/
theorem test_nmi : after { ready with pc := 0xC010#16 }.nmi
    (fun t => t.iff1 == false && t.iff2 && t.pc == 0x0066#16 && t.sp == 0xDFEE#16 && t.lastCycles == 11 &&
      t.memRead 0xDFEE#16 == 0x10#8 && t.memRead 0xDFEF#16 == 0xC0#8 && t.nmiPending == false) = true := by decide

/-- E3: mode 2 reads its handler at {I, data}. -/
theorem test_int_mode2 : after (((({ ready with im := .mode2, regI := 0xC1#8 }.memWrite 0xC1FE#16 0x00#8).memWrite
      0xC1FF#16 0xD0#8)).setInt true 0xFE#8)
    (fun t => t.pc == 0xD000#16 && t.lastCycles == 19 && t.iff1 == false && t.iff2 == false &&
      t.memRead 0xDFEF#16 == 0xC0#8 && t.memRead 0xDFEE#16 == 0x00#8) = true := by decide

/-- E5: mode 0 with RST 38. -/
theorem test_int_mode0_rst : after (ready.setInt true 0xFF#8)
    (fun t => t.pc == 0x0038#16 && t.lastCycles == 13 && t.memRead 0xDFEF#16 == 0xC0#8) = true := by decide

/-- E6: mode 0 with a byte that is no RST. -/
theorem test_int_mode0_other : after (ready.setInt true 0x00#8)
    (fun t => t.fault == some ⟨0xC000#16, [0x00#8]⟩ && t.lastCycles == 0) = true := by decide

/-- E4: the instruction after EI accepts nothing and ends ei_delay. -/
theorem test_ei_delay : after ({ ready with im := .mode1, eiDelay := true }.setInt true 0xFF#8)
    (fun t => t.pc == 0xC001#16 && t.eiDelay == false && t.iff1) = true := by decide

/-- E7: a halted machine with IFF1 clear stays halted. -/
theorem test_halted_cycle : after ({ ready with halted := true, iff1 := false }.setInt true 0xFF#8)
    (fun t => t.pc == 0xC000#16 && t.halted && t.lastCycles == 4 && t.regR == 1#8) = true := by decide

/-- K4, K5: a fault is sticky, and set_pc does not clear it. -/
theorem test_fault_is_sticky : let s := { State.reset with fault := some ⟨0xC001#16, [0xED#8, 0x00#8]⟩ }
    (s.setPc 0xC000).hostStep = (.faulted, s.setPc 0xC000) ∧ s.hostReset.fault = none := by decide

/-- K7: a reset that clears RAM leaves the mapper registers at their reset values. -/
theorem test_reset_clears_ram :
    let s := { State.reset with cfg := { Params.reference with resetClearsRam := true } }
    let t := ((s.memWrite 0xC000#16 0x12#8).memWrite 0xFFFD#16 0x07#8).hostReset
    t.memRead 0xC000#16 = 0#8 ∧ t.memRead 0xFFFD#16 = 0#8 ∧ t.memRead 0xFFFF#16 = 2#8 := by decide

/-- 10_state.md R31 under PerM1: LD R,A, a first byte ED, counts twice before it writes. -/
theorem test_refresh_per_m1 : let m1 := { State.reset with cfg := { Params.reference with rInc := .perM1 } }
    after (coded [0xED#8, 0x5F#8] [] { m1 with pc := 0xC000#16 }) (fun t => t.main.a == 2#8 && t.regR == 2#8) = true ∧
      after (coded [0x00#8] [] { m1 with pc := 0xC000#16 }) (fun t => t.regR == 1#8) = true := by decide

/-- The instruction placed for the host runs as the first one after reset. -/
theorem test_with_fetch_word : after (State.reset.withFetchWord 16 0xED57) (fun t => t.pc == 2#16 && t.lastCycles == 9)
    = true ∧ decodeTableWord 16 0xED57 = some .ldAI ∧ decodeTableWord 24 0x320000 = some (.ldIndNnA 0#16) := by decide

/-! ### Witnesses: states and operands that meet each statement's hypotheses, each clause at a boundary -/

theorem witness_PushThenPopMovesThePair :
    (State.reset.storable (State.reset.sp - 1#16) = true ∧ State.reset.storable (State.reset.sp - 2#16) = true) ∧
    ∃ s : State, s.sp = 0xC000#16 ∧ s.storable (s.sp - 1#16) = true ∧ s.storable (s.sp - 2#16) = true := by
  refine ⟨by decide, { (State.reset.memWrite 0xFFFC#16 0x08#8) with sp := 0xC000#16 }, rfl, ?_, ?_⟩ <;> decide

theorem witness_DaaMakesDecimalAddition :
    (99 < 100 ∧ ({ State.reset with main := { RegSet.zero with a := 0x99#8 } } : State).main.a.toNat = 99 / 10 * 16 + 99 % 10) ∧
    (0 < 100 ∧ State.reset.main.a.toNat = 0 / 10 * 16 + 0 % 10) := by decide

/-- INC A at 0xC000. -/
def incA : State := coded [0x3C#8] [] { ready with iff1 := false }

theorem witness_StepRunsTheDecodedInstruction : incA.runs ∧ incA.fetchesAs (.ok (.incR .a)) ∧
    ({ ready with eiDelay := true } : State).runs := by
  unfold State.runs State.fetchesAs; decide

theorem witness_RefreshCountsEveryStep_one : ∃ t, step incA = .next t ∧ (t.regR == 1#8) = true :=
  after_next (by decide)

/-- LDI at 0xC000 under PerM1: a first byte ED. -/
def ldiPerM1 : State :=
  coded [0xED#8, 0xA0#8] [] { State.reset with pc := 0xC000#16, cfg := { Params.reference with rInc := .perM1 } }

theorem witness_RefreshCountsEveryStep_two : ∃ t, step ldiPerM1 = .next t ∧ (t.regR == 2#8) = true :=
  after_next (by decide)

/-- LD R,A at 0xC000. -/
def ldRa : State := coded [0xED#8, 0x4F#8] [] { State.reset with pc := 0xC000#16, main := { RegSet.zero with a := 0xC3#8 } }

theorem witness_RefreshCountsEveryStep_ldRA :
    (∃ t, step ldRa = .next t ∧ (t.regR == 0xC3#8) = true) ∧ ldRa.fetchesAs (.ok .ldRA) :=
  ⟨after_next (by decide), by unfold State.fetchesAs; decide⟩

/-- LD A,R at 0xC000. -/
def ldAr : State := coded [0xED#8, 0x5F#8] [] { State.reset with pc := 0xC000#16, regR := 0x7F#8 }

theorem witness_RefreshCountsEveryStep_ldAR :
    (∃ t, step ldAr = .next t ∧ (t.regR == 0x00#8) = true) ∧ ldAr.runs ∧ ldAr.fetchesAs (.ok .ldAR) :=
  ⟨after_next (by decide), by unfold State.runs; decide, by unfold State.fetchesAs; decide⟩

theorem witness_RefreshCountsEveryStep_perM1 : ldiPerM1.runs ∧ ldiPerM1.cfg.rInc = .perM1 ∧
    ldiPerM1.memRead ldiPerM1.pc ∈ [0xCB#8, 0xDD#8, 0xED#8, 0xFD#8] ∧ ldiPerM1.fetchesAs (.ok .ldi) := by
  unfold State.runs State.fetchesAs; decide

/-- A machine at 0xC000 with these bytes. -/
def bytesAt (bs : List Byte) : State := coded bs [] { State.reset with pc := 0xC000#16 }

theorem witness_UndecodableBytesFault :
    ((bytesAt [0xCB#8, 0x37#8]).runs ∧ (bytesAt [0xCB#8, 0x37#8]).fetchesAs (.error .cbRow)) ∧
    ((bytesAt [0xED#8, 0x70#8]).runs ∧ (bytesAt [0xED#8, 0x70#8]).fetchesAs (.error .edRow)) ∧
    ((bytesAt [0xDD#8, 0xDD#8]).runs ∧ (bytesAt [0xDD#8, 0xDD#8]).fetchesAs (.error .xyRow)) ∧
    ((bytesAt [0xFD#8, 0xCB#8, 0#8, 0x36#8]).runs ∧
      (bytesAt [0xFD#8, 0xCB#8, 0#8, 0x36#8]).fetchesAs (.error .xycbRow)) := by
  unfold State.runs State.fetchesAs; decide

theorem witness_FaultedMachineDoesNothing :
    ({ State.reset with fault := some ⟨0#16, []⟩ } : State).fault = some ⟨0#16, []⟩ := rfl

theorem witness_HaltedMachineIdles : let s : State := { ready with halted := true }
    ({ s with halted := false } : State).runs ∧ s.halted = true := by
  unfold State.runs; decide

theorem witness_NmiIsTaken : let s := ready.nmi
    s.cfg.hasInterrupts = true ∧ s.fault = none ∧ s.nmiPending = true := by decide

theorem witness_MaskableInterruptIsTaken_mode0 :
    ((ready.setInt true 0xC7#8).takesInt ∧ (ready.setInt true 0xC7#8).im = .mode0) ∧
    (ready.setInt true 0xFF#8).takesInt ∧ (ready.setInt true 0xFE#8).takesInt := by
  unfold State.takesInt; decide

theorem witness_MaskableInterruptIsTaken_mode1 : ({ ready with im := .mode1 }.setInt true 0x00#8).takesInt := by
  unfold State.takesInt; decide

theorem witness_MaskableInterruptIsTaken_mode2 :
    ({ ready with im := .mode2, regI := 0xFF#8, sp := 0x0001#16 }.setInt true 0xFF#8).takesInt := by
  unfold State.takesInt; decide

theorem witness_RetnUndoesNmi : let s := ready.nmi
    s.cfg.hasInterrupts = true ∧ s.fault = none ∧ s.nmiPending = true ∧ s.storable (s.sp - 1#16) = true ∧
      s.storable (s.sp - 2#16) = true := by decide

/-- EI at 0xC000. -/
def eiAt : State := coded [0xFB#8] [] { ready with iff1 := false, iff2 := false }

theorem witness_EiDelaysAcceptanceByOneStep_ei : eiAt.cfg.hasInterrupts = true ∧ eiAt.runs ∧
    eiAt.fetchesAs (.ok .ei) ∧ ∃ t, step eiAt = .next t ∧ (t.eiDelay && t.fault.isNone) = true :=
  ⟨by decide, by unfold State.runs; decide, by unfold State.fetchesAs; decide, after_next (by decide)⟩

theorem witness_EiDelaysAcceptanceByOneStep_other : incA.cfg.hasInterrupts = true ∧
    ∃ t, step incA = .next t ∧ (!t.eiDelay && t.fault.isNone) = true :=
  ⟨by decide, after_next (by decide)⟩

theorem witness_ResetLeavesTheResetValues :
    (paged.mc.variant = .standard ∧ paged.cfg.resetClearsRam = false) ∧
    (pagedAlt.mc.variant = .alternateChecksum) ∧
    ({ State.reset with cfg := { Params.reference with resetClearsRam := true } } : State).cfg.resetClearsRam = true ∧
    inRam 0xC000#16 = true ∧ inRam 0xFFFB#16 = true := by decide

/-- Cartridge RAM enabled. -/
def cartRam : State := paged.memWrite 0xFFFC#16 0x08#8

theorem witness_ReadsFollowTheDecoder_unpaged : (0x03FF#16).toNat < 0x0400 ∧ paged.mc.variant = .standard ∧
    paged.memRead 0x03FF#16 = paged.imageByte 0x03FF := by decide

theorem witness_ReadsFollowTheDecoder_paged :
    ((0x0400#16).toNat < 0xC000 ∧ ¬ (paged.mc.variant = .standard ∧ (0x0400#16).toNat < 0x0400) ∧
      ¬ (0x8000 ≤ (0x0400#16).toNat ∧ paged.slot2IsRam) ∧ paged.memRead 0x0400#16 = 0xA0#8) ∧
    ((0xBFFF#16).toNat < 0xC000 ∧ ¬ (0x8000 ≤ (0xBFFF#16).toNat ∧ paged.slot2IsRam)) ∧
    ((0x0000#16).toNat < 0xC000 ∧ ¬ (pagedAlt.mc.variant = .standard ∧ (0x0000#16).toNat < 0x0400) ∧
      ¬ (0x8000 ≤ (0x0000#16).toNat ∧ pagedAlt.slot2IsRam)) := by
  unfold State.slot2IsRam; decide

theorem witness_ReadsFollowTheDecoder_cartridgeRam :
    (0x8000 ≤ (0x8000#16).toNat ∧ (0x8000#16).toNat < 0xC000 ∧ cartRam.slot2IsRam) ∧
    (0x8000 ≤ (0xBFFF#16).toNat ∧ (0xBFFF#16).toNat < 0xC000 ∧ cartRam.slot2IsRam) := by
  unfold State.slot2IsRam; decide

theorem witness_ReadsFollowTheDecoder_ram :
    (0xC000 ≤ (0xC000#16).toNat ∧ (0xC000#16).toNat < 0xE000) ∧ (0xC000 ≤ (0xDFFF#16).toNat ∧ (0xDFFF#16).toNat < 0xE000) ∧
    (0xE000 ≤ (0xE000#16).toNat ∧ (0xE000#16).toNat < 0xFFFC) ∧ (0xE000 ≤ (0xFFFB#16).toNat ∧ (0xFFFB#16).toNat < 0xFFFC) := by
  decide

theorem witness_WritesAreSeenWhereTheDecoderSays_windows :
    (0xC000 ≤ (0xDFFB#16).toNat ∧ (0xDFFB#16).toNat ≤ 0xDFFB) ∧ (0xE000 ≤ (0xE000#16).toNat ∧ (0xE000#16).toNat ≤ 0xFFFB) ∧
    (0xE000 ≤ (0xFFFB#16).toNat ∧ (0xFFFB#16).toNat ≤ 0xFFFB) ∧ (0xDFFC ≤ (0xDFFC#16).toNat ∧ (0xDFFC#16).toNat ≤ 0xDFFF) ∧
    (0xDFFC ≤ (0xDFFF#16).toNat ∧ (0xDFFF#16).toNat ≤ 0xDFFF) ∧ 0xFFFC ≤ (0xFFFC#16).toNat ∧ 0xFFFC ≤ (0xFFFF#16).toNat := by
  decide

theorem witness_WritesAreSeenWhereTheDecoderSays_cartridgeRam :
    0x8000 ≤ (0xBFFF#16).toNat ∧ (0xBFFF#16).toNat < 0xC000 ∧ cartRam.slot2IsRam := by
  unfold State.slot2IsRam; decide

theorem witness_WritesAreSeenWhereTheDecoderSays_rom :
    (((0x7FFF#16).toNat < 0x8000 ∨ (0x7FFF#16).toNat < 0xC000 ∧ ¬ cartRam.slot2IsRam) ∧
      ¬ (cartRam.mc.variant = .alternateChecksum ∧ (0x7FFF#16) ∈ [0x0000#16, 0x4000#16, 0x8000#16])) ∧
    (((0xBFFF#16).toNat < 0x8000 ∨ (0xBFFF#16).toNat < 0xC000 ∧ ¬ pagedAlt.slot2IsRam) ∧
      ¬ (pagedAlt.mc.variant = .alternateChecksum ∧ (0xBFFF#16) ∈ [0x0000#16, 0x4000#16, 0x8000#16])) := by
  unfold State.slot2IsRam; decide

theorem witness_AlternatePageSelects : 0 < 3 ∧ 2 < 3 ∧ pagedAlt.mc.variant = .alternateChecksum ∧
    (pagedAlt.memWrite 0x8000#16 0x03#8).memRead 0x8000#16 = 0xA3#8 := by decide

theorem witness_HostAccessors : ((-1 : Int) < 0 ∨ 0xFFFF < (-1 : Int)) ∧ ((0x10000 : Int) < 0 ∨ 0xFFFF < (0x10000 : Int)) ∧
    (0 ≤ (0 : Int) ∧ (0 : Int) ≤ 0xFFFF) ∧ (0 ≤ (0xFFFF : Int) ∧ (0xFFFF : Int) ≤ 0xFFFF) := by decide

theorem witness_DecodeOfEncodeIsTheInstruction : (Instr.jrCcE .c 0x10#8).wellFormed = true ∧
    (Instr.rstP 0x38#8).wellFormed = true ∧ (Instr.setIdx 7#3 .iy 0xFF#8).wellFormed = true := by decide

theorem witness_EncodeOfDecodeIsTheBytes : decode 0xFD#8 0xCB#8 0x80#8 0xFE#8 = .ok (.setIdx 7#3 .iy 0x80#8) ∧
    decode 0x00#8 0x01#8 0x02#8 0x03#8 = .ok .nop := by decide

theorem witness_EveryStepKeepsTheInvariant : eiAt.Inv ∧ ∃ t, step eiAt = .next t ∧ t.eiDelay = true := by
  refine ⟨?_, after_next (by decide)⟩
  unfold State.Inv MemCtl.sound; decide

/-- A state a step leaves with every part of the invariant at work: a set fault. -/
theorem witness_Inv_faulted :
    State.Inv { State.reset with fault := some ⟨0x0000#16, [0xED#8, 0x00#8]⟩ } := by
  unfold State.Inv MemCtl.sound; decide

theorem witness_OnlyTheNamedInstructionsWrite :
    (∃ t, step (bytesAt [0xD9#8]) = .next t ∧ t.fault.isNone = true) ∧
    (∃ t, step (bytesAt [0xED#8, 0x56#8]) = .next t ∧ (t.im != State.reset.im) = true) ∧
    (∃ t, step (coded [0xED#8, 0x47#8] [] { State.reset with pc := 0xC000#16, main := { RegSet.zero with a := 5#8 } }) = .next t ∧
      (t.regI != 0#8) = true) ∧
    (∃ t, step (bytesAt [0xDD#8, 0x2B#8]) = .next t ∧ (t.ix != 0#16) = true) ∧
    ∃ t, step (bytesAt [0xFD#8, 0x23#8]) = .next t ∧ (t.iy != 0#16) = true :=
  ⟨after_next (by decide), after_next (by decide), after_next (by decide), after_next (by decide),
    after_next (by decide)⟩

theorem witness_StepCostsAreBounded :
    (∃ t, step (bytesAt [0x00#8]) = .next t ∧ (t.fault.isNone && t.lastCycles == 4) = true) ∧
    (∃ t, step (bytesAt [0xDD#8, 0xCB#8, 0x00#8, 0x06#8]) = .next t ∧ (t.fault.isNone && t.lastCycles == 23) = true) ∧
    ∃ t, step (bytesAt [0xED#8, 0x00#8]) = .next t ∧ (t.fault.isSome && t.lastCycles == 0) = true :=
  ⟨after_next (by decide), after_next (by decide), after_next (by decide)⟩

theorem witness_LoadStripsDetectsAndResets : (List.replicate 512 0xEE#8).length % 0x4000 = 512 ∧
    checksumVariant 0x01#8 0x00#8 0xFF#8 0xFF#8 = .alternateChecksum := by decide +kernel

/-- A machine whose frame budget is 0. -/
def noBudget : State := { State.reset with cfg := { Params.reference with clockHz := 59 } }

theorem witness_UpdateRunsOneFrame : State.reset.cfg = Params.reference ∧
    noBudget.cfg.clockHz / noBudget.cfg.fps = 0 ∧ noBudget.update = (.ok, noBudget) := by decide

/-- A machine whose frame budget is 5: two NOPs, the first of which leaves the sum at 4. -/
def smallBudget : State := { State.reset with cfg := { Params.reference with clockHz := 300 } }

theorem witness_UpdateRunsOneFrame_steps : smallBudget.cfg.clockHz / smallBudget.cfg.fps = 5 ∧
    (runOk 1 smallBudget).map Prod.snd = some 4 ∧ (runOk 2 smallBudget).map Prod.snd = some 8 ∧
    smallBudget.update.1 = .ok ∧ smallBudget.update.2.pc = 2#16 := by decide

end Sys2Proof.Tests
end

section
/-! SUPPORT. The two interrupt acceptances, each said once: which machine enters which handler. -/

namespace Sys2Proof.Machine

open Sys2Proof

/-- The machine at the moment a maskable acceptance chooses its handler (60_exceptions.md R290). -/
def State.maskableBegun (s : State) : State := { s.beginAcceptance with iff2 := false }

/-- The machine at the moment an NMI acceptance pushes PC (60_exceptions.md R289). -/
def State.nmiBegun (s : State) : State := { s.beginAcceptance with nmiPending := false, eiDelay := false }

theorem State.acceptNmi_eq (s : State) : s.acceptNmi = s.nmiBegun.enterHandler 0x0066#16 11 := rfl

/-- A maskable acceptance enters a handler for at most 19 cycles, or, in mode 0 with a byte that is no RST,
raises Unimplemented at PC. -/
theorem State.acceptInt_cases (s : State) :
    (∃ handler cycles, cycles ≤ 19 ∧ s.acceptInt = s.maskableBegun.enterHandler handler cycles) ∨
      s.acceptInt = s.maskableBegun.raiseUnimplemented s.pc [s.intData] := by
  unfold State.acceptInt
  cases s.im with
  | mode0 =>
    cases isRst s.intData with
    | true => exact .inl ⟨_, 13, by decide, rfl⟩
    | false => exact .inr rfl
  | mode1 => exact .inl ⟨_, 13, by decide, rfl⟩
  | mode2 => exact .inl ⟨_, 19, by decide, rfl⟩

/-- Entering a handler changes memory, SP, PC and the cycle count only. -/
theorem State.enterHandler_keepsRest (s : State) (handler : Word) (cycles : Nat) :
    KeepsRest s (s.enterHandler handler cycles) :=
  (s.push16_keepsRest s.pc).trans (State.goto_keepsRest _ handler cycles)

/-- The two stores of the pushed PC keep memory canonical. -/
theorem State.enterHandler_sound (s : State) (handler : Word) (cycles : Nat) :
    s.mc.sound → (s.enterHandler handler cycles).mc.sound :=
  sound_write2 (s.push16_mc s.pc)

end Sys2Proof.Machine
end

section
/-! PROOF. The invariant at reset and over every step (O57, O56): one lemma for each way a step can go. -/

namespace Sys2Proof.Machine

open Sys2Proof

/-- With neither IFF1 nor ei_delay set, what an acceptance begins with is enough for the invariant after it. -/
theorem State.enterHandler_inv (s : State) (handler : Word) (cycles : Nat) (hm : s.mc.sound) (hf : s.fault = none)
    (h1 : s.iff1 = false) (he : s.eiDelay = false) (hc : cycles ≤ 23) :
    (s.enterHandler handler cycles).Inv := by
  obtain ⟨_, _, ⟨k1, _, _, _, ke⟩, _, kf, _⟩ := s.enterHandler_keepsRest handler cycles
  refine ⟨s.enterHandler_sound handler cycles hm, hc, fun info h => ?_, fun h => ?_, fun h => ?_⟩
  · rw [kf, hf] at h; cases h
  · rw [k1, h1] at h; cases h
  · rw [ke, he] at h; cases h

/-- An exception at PC keeps the invariant, whatever R has become. -/
theorem State.raiseUnimplemented_inv (s : State) (bytes : List Byte) (hm : s.mc.sound)
    (h12 : s.iff1 = true → s.iff2 = true)
    (he : s.eiDelay = true → s.iff1 = true ∧ s.halted = false ∧ s.cfg.hasInterrupts = true) :
    (s.raiseUnimplemented s.pc bytes).Inv :=
  ⟨hm, Nat.zero_le 23, fun info h => by cases h; exact ⟨rfl, rfl⟩, h12, he⟩

theorem State.acceptNmi_inv (s : State) (hi : s.Inv) (hf : s.fault = none) : s.acceptNmi.Inv := by
  obtain ⟨hm, _⟩ := hi
  rw [s.acceptNmi_eq]
  exact s.nmiBegun.enterHandler_inv _ _ hm hf rfl rfl (by decide)

/-- A maskable acceptance happens only while ei_delay is clear (60_exceptions.md R288). -/
theorem State.acceptInt_inv (s : State) (hi : s.Inv) (ht : s.takesInt) : s.acceptInt.Inv := by
  obtain ⟨hm, _⟩ := hi
  obtain ⟨_, hf, _, _, _, he⟩ := ht
  rcases s.acceptInt_cases with ⟨handler, cycles, hc, e⟩ | e <;> rw [e]
  · exact s.maskableBegun.enterHandler_inv handler cycles hm hf rfl he (by omega)
  · exact s.maskableBegun.raiseUnimplemented_inv _ hm (fun h => by cases h)
      fun h => absurd (he.symm.trans h) Bool.false_ne_true

/-- In a state of the invariant `ei_delay` ends as a step begins: it is set only with P_HAS_INTERRUPTS. -/
theorem State.Inv.endsEiDelay {s : State} (hi : s.Inv) : (s.eiDelay && !s.cfg.hasInterrupts) = false := by
  obtain ⟨_, _, _, _, he⟩ := hi
  cases h : s.eiDelay with
  | false => rfl
  | true => rw [(he h).2.2]; rfl

theorem State.haltedCycle_inv (s : State) (hi : s.Inv) (hf : s.fault = none) : s.haltedCycle.Inv := by
  have he := hi.endsEiDelay
  obtain ⟨hm, _, _, h12, _⟩ := hi
  rw [s.haltedCycle_eq]
  refine ⟨hm, by show 4 ≤ 23; decide, fun info h => ?_, h12, fun h => ?_⟩
  · exact absurd (hf.symm.trans h) (by simp)
  · exact absurd (he.symm.trans h) Bool.false_ne_true

/-- An instruction keeps the invariant: it raises no fault, moves IFF1 and IFF2 together or takes IFF1 from
IFF2, and sets ei_delay only as EI, which sets IFF1 and does not halt. -/
theorem State.exec_inv {i : Instr} {s t : State} (hi : s.Inv) (hr : s.runs) (hk : ExecKeeps i s.ready t) : t.Inv := by
  have hend := hi.endsEiDelay
  obtain ⟨hm, _, _, h12, _⟩ := hi
  obtain ⟨hf, hh, _⟩ := hr
  rw [s.ready_eq, hend] at hk
  obtain ⟨⟨kf, _, _, _, kcfg, _⟩, ksound, _, kcost, _, _, _, _, khalt, kiff, kei, kother, _⟩ := hk
  refine ⟨ksound hm, kcost, fun info h => ?_, fun h => ?_, fun h => ?_⟩
  · exact absurd (hf.symm.trans (kf.symm.trans h)) (by simp)
  · rcases kiff with ⟨e1, e2⟩ | e
    · exact e2.trans (h12 (e1.symm.trans h))
    · exact e.symm.trans h
  · by_cases hei : i = .ei
    · obtain ⟨h1, hd⟩ := kei hei
      have hhalt : t.halted = s.halted := khalt.resolve_right (by rw [hei]; decide)
      rw [hd, Bool.or_false] at h
      exact ⟨h1, hhalt.trans hh, by rw [kcfg]; exact h⟩
    · exact absurd ((kother hei).symm.trans h) Bool.false_ne_true

/-- Settles O56: each of the five ways `step_cases` names keeps the invariant. -/
theorem everyStepKeepsTheInvariant : Obligations.EveryStepKeepsTheInvariant := by
  intro s t hi h
  obtain ⟨hf, ⟨_, _, rfl⟩ | ⟨ht, rfl⟩ | ⟨_, rfl⟩ | ⟨_, e, _, rfl⟩ | ⟨hr, i, _, _, hk⟩⟩ := step_cases h
  · exact s.acceptNmi_inv hi hf
  · exact s.acceptInt_inv hi ht
  · exact s.haltedCycle_inv hi hf
  · obtain ⟨hm, _, _, h12, he⟩ := hi
    exact State.raiseUnimplemented_inv { s with regR := s.fetchedR } _ hm h12 he
  · exact State.exec_inv hi hr hk

/-- Settles O57: the reset leaves both stores empty, no fault, and every interrupt bit clear. -/
theorem resetHasTheInvariant : Obligations.ResetHasTheInvariant := by
  refine ⟨⟨Memory.wf_nil, rfl, Memory.wf_nil, rfl⟩, Nat.zero_le 23, fun info h => ?_, fun h => ?_, fun h => ?_⟩ <;>
    cases h

end Sys2Proof.Machine
end
section
/-! PROOF. R over every step (O39). -/

namespace Sys2Proof.Machine

open Sys2Proof

/-! ### One refresh increment, as numbers (10_state.md R31) -/

theorem refreshed_bit7 (r : Byte) : (refreshed r).getLsbD 7 = r.getLsbD 7 := by
  revert r; decide

theorem refreshed_toNat_mod (r : Byte) : (refreshed r).toNat % 128 = (r.toNat + 1) % 128 := by
  revert r; decide

/-- The increments of a step that fetches leave bit 7, however many there are. -/
theorem State.fetchedR_bit7 (s : State) : s.fetchedR.getLsbD 7 = s.regR.getLsbD 7 := by
  unfold State.fetchedR
  split
  · rw [refreshed_bit7, refreshed_bit7]
  · exact refreshed_bit7 s.regR

/-! ### R after a step -/

theorem State.acceptNmi_regR (s : State) : s.acceptNmi.regR = refreshed s.regR := rfl

theorem State.acceptInt_regR (s : State) : s.acceptInt.regR = refreshed s.regR := by
  rcases s.acceptInt_cases with ⟨_, _, _, e⟩ | e <;> rw [e] <;> rfl

theorem State.haltedCycle_regR (s : State) : s.haltedCycle.regR = refreshed s.regR := by
  rw [s.haltedCycle_eq]

/-- A step that fetches an instruction is that instruction's effect. -/
theorem step_of_fetches {s : State} {i : Instr} (hr : s.runs) (hf : s.fetchesAs (.ok i)) :
    step s = exec i s.ready := by
  have hd : s.decoded = .ok i := hf
  rw [step_of_runs hr, State.runInstruction, hd]

/-- Neither a halted machine nor one that accepts an interrupt fetches (60_exceptions.md R293). -/
theorem not_runs_of_halted {s : State} (h : s.halted = true) : ¬ s.runs := by
  rintro ⟨_, hh, _⟩
  exact Bool.false_ne_true (hh.symm.trans h)

theorem not_runs_of_takesInt {s : State} (h : s.takesInt) : ¬ s.runs := by
  rintro ⟨_, _, hno⟩
  obtain ⟨hc, _, _, hl, h1, he⟩ := h
  exact (hno hc).2 ⟨hl, h1, he⟩

theorem not_runs_of_nmi {s : State} (hc : s.cfg.hasInterrupts = true) (hn : s.nmiPending = true) : ¬ s.runs := by
  rintro ⟨_, _, hno⟩
  exact Bool.false_ne_true ((hno hc).1.symm.trans hn)

/-- R after a step, but for LD R,A: the increments of a fetch where the step fetches, else one. -/
theorem step_regR {s t : State} (h : step s = .next t) (hld : ¬ (s.runs ∧ s.fetchesAs (.ok .ldRA))) :
    (s.runs ∧ t.regR = s.fetchedR) ∨ (¬ s.runs ∧ t.regR = refreshed s.regR) := by
  obtain ⟨_, ⟨hc, hn, rfl⟩ | ⟨ht, rfl⟩ | ⟨hh, rfl⟩ | ⟨hr, _, _, rfl⟩ | ⟨hr, i, hd, _, hk⟩⟩ := step_cases h
  · exact .inr ⟨not_runs_of_nmi hc hn, s.acceptNmi_regR⟩
  · exact .inr ⟨not_runs_of_takesInt ht, s.acceptInt_regR⟩
  · exact .inr ⟨not_runs_of_halted hh, s.haltedCycle_regR⟩
  · exact .inl ⟨hr, rfl⟩
  · obtain ⟨_, _, _, _, _, _, hR, _⟩ := hk
    rw [s.ready_eq] at hR
    refine .inl ⟨hr, hR.resolve_right ?_⟩
    rintro ⟨rfl, _⟩
    exact hld ⟨hr, hd⟩

/-- Settles O39: `step_regR`, the arithmetic of `refreshed`, and the effects of LD R,A and LD A,R. -/
theorem refreshCountsEveryStep : Obligations.RefreshCountsEveryStep := by
  intro s t h
  refine ⟨fun hr hf => ?_, fun hr hf => ?_, fun hld => ?_⟩
  · rw [step_of_fetches hr hf, s.ready_eq] at h
    cases h; rfl
  · rw [step_of_fetches hr hf, s.ready_eq] at h
    cases h; rfl
  · rcases step_regR h hld with ⟨hr, e⟩ | ⟨hr, e⟩ <;> rw [e]
    · refine ⟨s.fetchedR_bit7, fun hone => ?_, fun _ _ hcfg hmem _ => ?_⟩
      · rw [State.fetchedR, if_neg fun htwo => hone ⟨hr, htwo⟩, refreshed_toNat_mod]
      · rw [State.fetchedR, if_pos ⟨hcfg, hmem⟩, refreshed_toNat_mod]
        have := refreshed_toNat_mod s.regR
        omega
    · exact ⟨refreshed_bit7 _, fun _ => refreshed_toNat_mod _, fun _ hrun => absurd hrun hr⟩

end Sys2Proof.Machine
end
section
/-! PROOF. The host's reset (O47): the memory controller field by field, then what reads of the top cells and of
RAM show after it. -/

namespace Sys2Proof.Machine

open Sys2Proof

/-! ### The two parts of a reset of the memory controller (10_state.md R42) -/

/-- The RAM part writes the two byte stores only. -/
theorem MemCtl.resetRam_keeps (m : MemCtl) (clears : Bool) :
    m.resetRam clears = { m with ram := (m.resetRam clears).ram, cram := (m.resetRam clears).cram } := by
  cases clears <;> rfl

@[simp] theorem MemCtl.resetRam_false (m : MemCtl) : m.resetRam false = m := rfl

@[simp] theorem MemCtl.resetRam_true (m : MemCtl) : m.resetRam true = { m with ram := [], cram := [] } := rfl

/-- The mapper part leaves the cartridge and both byte stores. -/
theorem MemCtl.resetMapper_keeps (m : MemCtl) :
    m.resetMapper.image = m.image ∧ m.resetMapper.variant = m.variant ∧
      m.resetMapper.cartLoaded = m.cartLoaded ∧ m.resetMapper.ram = m.ram ∧ m.resetMapper.cram = m.cram := by
  unfold MemCtl.resetMapper
  cases m.variant <;> exact ⟨rfl, rfl, rfl, rfl, rfl⟩

/-- The page selects of the AlternateChecksum variant take their values in either variant. -/
theorem MemCtl.resetMapper_apages (m : MemCtl) :
    m.resetMapper.apage0 = 0#8 ∧ m.resetMapper.apage1 = 1#8 ∧ m.resetMapper.apage2 = 2#8 := by
  unfold MemCtl.resetMapper
  cases m.variant <;> exact ⟨rfl, rfl, rfl⟩

theorem MemCtl.resetMapper_tops_standard (m : MemCtl) (h : m.variant = .standard) :
    m.resetMapper.top0 = 0#8 ∧ m.resetMapper.top1 = 0#8 ∧ m.resetMapper.top2 = 1#8 ∧ m.resetMapper.top3 = 2#8 := by
  unfold MemCtl.resetMapper
  rw [h]; exact ⟨rfl, rfl, rfl, rfl⟩

theorem MemCtl.resetMapper_tops_alternate (m : MemCtl) (h : m.variant = .alternateChecksum) :
    m.resetMapper.top0 = m.top0 ∧ m.resetMapper.top1 = m.top1 ∧ m.resetMapper.top2 = m.top2 ∧
      m.resetMapper.top3 = m.top3 := by
  unfold MemCtl.resetMapper
  rw [h]; exact ⟨rfl, rfl, rfl, rfl⟩

/-! ### Reads of the top cells and of RAM -/

/-- A top address reads its top cell (20_memory.md R59). -/
theorem State.memRead_top (s : State) (a : Word) (j : Nat) (h : a.toNat = 0xFFFC + j) :
    s.memRead a = s.mc.topCell j := by
  unfold State.memRead
  rw [s.mc.place_top a (by omega), h, Nat.add_sub_cancel_left]; rfl

theorem State.memRead_tops (s : State) :
    s.memRead 0xFFFC#16 = s.mc.top0 ∧ s.memRead 0xFFFD#16 = s.mc.top1 ∧ s.memRead 0xFFFE#16 = s.mc.top2 ∧
      s.memRead 0xFFFF#16 = s.mc.top3 :=
  ⟨s.memRead_top _ 0 (by decide), s.memRead_top _ 1 (by decide), s.memRead_top _ 2 (by decide),
    s.memRead_top _ 3 (by decide)⟩

/-- Both RAM windows read the one store. -/
theorem State.memRead_inRam (s : State) (a : Word) (h : inRam a = true) :
    s.memRead a = Memory.read s.mc.ram (a.toNat % 0x2000) := by
  unfold State.memRead
  rw [s.mc.place_ram a h]; rfl

/-! ### The reset -/

theorem FlagReg.zero_toByte : FlagReg.zero.toByte = 0#8 := by decide

theorem RegSet.zero_pairs : RegSet.zero.bc = 0#16 ∧ RegSet.zero.de = 0#16 ∧ RegSet.zero.hl = 0#16 := by decide

theorem State.hostReset_mc (s : State) : s.hostReset.mc = s.mc.resetMapper.resetRam s.cfg.resetClearsRam := rfl

/-- The cartridge stays (70_reset_and_hazards.md R300). -/
theorem State.hostReset_cartridge (s : State) :
    s.hostReset.mc.image = s.mc.image ∧ s.hostReset.mc.variant = s.mc.variant ∧
      s.hostReset.mc.cartLoaded = s.mc.cartLoaded := by
  obtain ⟨hi, hv, hl, _, _⟩ := s.mc.resetMapper_keeps
  rw [s.hostReset_mc, MemCtl.resetRam_keeps]
  exact ⟨hi, hv, hl⟩

theorem State.hostReset_apages (s : State) :
    s.hostReset.mc.apage0 = 0#8 ∧ s.hostReset.mc.apage1 = 1#8 ∧ s.hostReset.mc.apage2 = 2#8 := by
  rw [s.hostReset_mc, MemCtl.resetRam_keeps]
  exact s.mc.resetMapper_apages

theorem State.hostReset_tops_standard (s : State) (h : s.mc.variant = .standard) :
    s.hostReset.memRead 0xFFFC#16 = 0#8 ∧ s.hostReset.memRead 0xFFFD#16 = 0#8 ∧
      s.hostReset.memRead 0xFFFE#16 = 1#8 ∧ s.hostReset.memRead 0xFFFF#16 = 2#8 := by
  obtain ⟨r0, r1, r2, r3⟩ := s.hostReset.memRead_tops
  rw [r0, r1, r2, r3, s.hostReset_mc, MemCtl.resetRam_keeps]
  exact s.mc.resetMapper_tops_standard h

theorem State.hostReset_tops_alternate (s : State) (h : s.mc.variant = .alternateChecksum) :
    s.hostReset.memRead 0xFFFC#16 = s.memRead 0xFFFC#16 ∧ s.hostReset.memRead 0xFFFD#16 = s.memRead 0xFFFD#16 ∧
      s.hostReset.memRead 0xFFFE#16 = s.memRead 0xFFFE#16 ∧ s.hostReset.memRead 0xFFFF#16 = s.memRead 0xFFFF#16 := by
  obtain ⟨r0, r1, r2, r3⟩ := s.hostReset.memRead_tops
  obtain ⟨q0, q1, q2, q3⟩ := s.memRead_tops
  rw [r0, r1, r2, r3, q0, q1, q2, q3, s.hostReset_mc, MemCtl.resetRam_keeps]
  exact s.mc.resetMapper_tops_alternate h

/-- Without P_RESET_CLEARS_RAM both stores stay. -/
theorem State.hostReset_keepsRam (s : State) (h : s.cfg.resetClearsRam = false) :
    s.hostReset.mc.cram = s.mc.cram ∧ ∀ a, inRam a = true → s.hostReset.memRead a = s.memRead a := by
  obtain ⟨_, _, _, hr, hc⟩ := s.mc.resetMapper_keeps
  have hm : s.hostReset.mc = s.mc.resetMapper := by rw [s.hostReset_mc, h, MemCtl.resetRam_false]
  refine ⟨by rw [hm, hc], fun a ha => ?_⟩
  rw [State.memRead_inRam _ a ha, State.memRead_inRam _ a ha, hm, hr]

/-- With P_RESET_CLEARS_RAM every byte of both stores is 0. -/
theorem State.hostReset_clearsRam (s : State) (h : s.cfg.resetClearsRam = true) :
    (∀ k, Memory.read s.hostReset.mc.cram k = 0#8) ∧ ∀ a, inRam a = true → s.hostReset.memRead a = 0#8 := by
  have hm : s.hostReset.mc = { s.mc.resetMapper with ram := [], cram := [] } := by
    rw [s.hostReset_mc, h, MemCtl.resetRam_true]
  refine ⟨fun k => by rw [hm]; rfl, fun a ha => ?_⟩
  rw [State.memRead_inRam _ a ha, hm]; rfl

/-- Settles O47: the CPU fields are written outright, the memory controller is the lemmas above, and the
constructed machine already holds every reset value. -/
theorem resetLeavesTheResetValues : Obligations.ResetLeavesTheResetValues := by
  obtain ⟨hbc, hde, hhl⟩ := RegSet.zero_pairs
  refine ⟨fun s => ⟨s.hostReset, rfl, fun r => by cases r <;> rfl, FlagReg.zero_toByte, rfl, FlagReg.zero_toByte,
    hbc, hde, hhl, rfl, rfl, rfl, rfl, rfl, rfl, rfl, rfl, rfl, rfl, rfl, rfl, rfl, rfl, rfl, rfl, ?_⟩,
    rfl, rfl, rfl, rfl⟩
  obtain ⟨hi, hv, hl⟩ := s.hostReset_cartridge
  obtain ⟨h0, h1, h2⟩ := s.hostReset_apages
  exact ⟨hi, hv, hl, s.hostReset_tops_standard, s.hostReset_tops_alternate, h0, h1, h2, s.hostReset_keepsRam,
    s.hostReset_clearsRam⟩

end Sys2Proof.Machine
end
section
/-! SUPPORT. The first byte of what the decoder answers, one lemma for each table of the opcode map
(30_encoding.md R86): an instruction's encoding begins with the byte that was decoded. -/

namespace Sys2Proof

/-- The encoding of `i` begins with `b`. -/
def Instr.beginsWith (i : Instr) (b : Byte) : Prop := (encode i).head? = some b

/-- What holds of the register forms and of the (HL) form holds of the form a code picks. -/
theorem pickReg_induction (P : Instr → Prop) (z : Nat) (reg : Reg8 → Instr) (indHl : Instr)
    (hreg : ∀ r, P (reg r)) (hind : P indHl) : P (pickReg z reg indHl) := by
  unfold pickReg
  cases Reg8.ofCode z with
  | some r => exact hreg r
  | none => exact hind

/-! ### Rows 0x00 to 0xBF of the first map -/

theorem decodeX0_beginsWith (y z : Nat) (b1 b2 : Byte) (hy : y < 8) (hz : z < 8) :
    (decodeX0 y z b1 b2).beginsWith (opXyz 0 y z) := by
  interval_cases y <;> interval_cases z <;> rfl

theorem decodeX1_beginsWith (y z : Nat) (hy : y < 8) (hz : z < 8) : (decodeX1 y z).beginsWith (opXyz 1 y z) := by
  interval_cases y <;> interval_cases z <;> rfl

theorem aluOperand_beginsWith (y z : Nat) (hy : y < 8) (hz : z < 8) :
    (aluOperand y z).beginsWith (opXyz 2 y z) := by
  interval_cases y <;> interval_cases z <;> rfl

/-! ### The tables behind CB, ED, and DD or FD -/

theorem decodeCb_beginsWith {op : Byte} {i : Instr} (h : decodeCb op = .ok i) : i.beginsWith 0xCB#8 := by
  simp only [decodeCb] at h
  split at h
  · split at h <;> cases h <;> exact pickReg_induction (·.beginsWith 0xCB#8) _ _ _ (fun _ => rfl) rfl
  all_goals cases h; exact pickReg_induction (·.beginsWith 0xCB#8) _ _ _ (fun _ => rfl) rfl

theorem decodeEdX1_beginsWith {y z : Nat} {b2 b3 : Byte} {i : Instr} (h : decodeEdX1 y z b2 b3 = .ok i) :
    i.beginsWith 0xED#8 := by
  unfold decodeEdX1 at h
  split at h
  case h_3 | h_4 => cases h; split <;> rfl
  all_goals split at h <;> cases h <;> rfl

theorem decodeEdX2_beginsWith {y z : Nat} {i : Instr} (h : decodeEdX2 y z = .ok i) : i.beginsWith 0xED#8 := by
  unfold decodeEdX2 at h
  split at h <;> cases h <;> rfl

theorem decodeEd_beginsWith {op b2 b3 : Byte} {i : Instr} (h : decodeEd op b2 b3 = .ok i) : i.beginsWith 0xED#8 := by
  unfold decodeEd at h
  split at h
  · exact decodeEdX1_beginsWith h
  · exact decodeEdX2_beginsWith h
  · cases h

theorem aluIndexed_beginsWith (y : Nat) (xy : IdxReg) (d : Byte) : (aluIndexed y xy d).beginsWith xy.byte := by
  unfold aluIndexed
  split <;> rfl

theorem decodeXyCb_beginsWith {xy : IdxReg} {d op : Byte} {i : Instr} (h : decodeXyCb xy d op = .ok i) :
    i.beginsWith xy.byte := by
  simp only [decodeXyCb] at h
  split at h
  · split at h
    · split at h <;> cases h <;> rfl
    all_goals cases h; rfl
  · cases h

theorem decodeXy_beginsWith {xy : IdxReg} {op b2 b3 : Byte} {i : Instr} (h : decodeXy xy op b2 b3 = .ok i) :
    i.beginsWith xy.byte := by
  simp only [decodeXy] at h
  split at h
  · split at h
    case h_9 => split at h <;> cases h; rfl
    all_goals cases h <;> rfl
  · split at h <;> cases h <;> rfl
  · split at h <;> cases h; exact aluIndexed_beginsWith _ xy b2
  · split at h
    case h_1 => exact decodeXyCb_beginsWith h
    all_goals cases h <;> rfl

/-! ### Rows 0xC0 to 0xFF, and the decoder -/

/-- Among the rows with z = 3 only CB leads to another table. -/
theorem decodeX3_three_beginsWith {y : Nat} {b1 b2 b3 : Byte} {i : Instr} (hy : y < 8)
    (h : decodeX3 y 3 b1 b2 b3 = .ok i) : i.beginsWith (opXyz 3 y 3) := by
  match y, hy, h with
  | 1, _, h => exact decodeCb_beginsWith h
  | 0, _, h | 2, _, h | 3, _, h | 4, _, h | 5, _, h | 6, _, h | 7, _, h => cases h; rfl

/-- Among the rows with z = 5 DD, ED and FD lead to other tables. -/
theorem decodeX3_five_beginsWith {y : Nat} {b1 b2 b3 : Byte} {i : Instr} (hy : y < 8)
    (h : decodeX3 y 5 b1 b2 b3 = .ok i) : i.beginsWith (opXyz 3 y 5) := by
  match y, hy, h with
  | 3, _, h => exact decodeXy_beginsWith h
  | 5, _, h => exact decodeEd_beginsWith h
  | 7, _, h => exact decodeXy_beginsWith h
  | 0, _, h | 1, _, h | 2, _, h | 4, _, h | 6, _, h => cases h; rfl

theorem decodeX3_beginsWith {y z : Nat} {b1 b2 b3 : Byte} {i : Instr} (hy : y < 8) (hz : z < 8)
    (h : decodeX3 y z b1 b2 b3 = .ok i) : i.beginsWith (opXyz 3 y z) := by
  match z, hz, h with
  | 3, _, h => exact decodeX3_three_beginsWith hy h
  | 5, _, h => exact decodeX3_five_beginsWith hy h
  | 0, _, h | 1, _, h | 2, _, h | 4, _, h | 6, _, h | 7, _, h => interval_cases y <;> cases h <;> rfl

/-- A byte is its fields x, y and z (30_encoding.md R78). -/
theorem byte_eq_opXyz (b : Byte) : b = opXyz (b.toNat / 64) (b.toNat / 8 % 8) (b.toNat % 8) := by
  apply BitVec.eq_of_toNat_eq
  have := b.isLt
  rw [opXyz, BitVec.toNat_ofNat]; omega

/-- The first byte of an encoding is the first byte of what decodes to it (30_encoding.md R86). -/
theorem decode_beginsWith {b0 b1 b2 b3 : Byte} {i : Instr} (h : decode b0 b1 b2 b3 = .ok i) : i.beginsWith b0 := by
  have hx : b0.toNat / 64 < 4 := by have := b0.isLt; omega
  have hy : b0.toNat / 8 % 8 < 8 := Nat.mod_lt _ (by decide)
  have hz : b0.toNat % 8 < 8 := Nat.mod_lt _ (by decide)
  unfold decode at h
  rw [byte_eq_opXyz b0]
  generalize b0.toNat / 64 = x, b0.toNat / 8 % 8 = y, b0.toNat % 8 = z at h hx hy hz ⊢
  interval_cases x
  · cases h; exact decodeX0_beginsWith y z b1 b2 hy hz
  · cases h; exact decodeX1_beginsWith y z hy hz
  · cases h; exact aluOperand_beginsWith y z hy hz
  · exact decodeX3_beginsWith hy hz h

end Sys2Proof
end
section
/-! PROOF. Which instructions write the alternates, I, IM and the index registers (O58). -/

namespace Sys2Proof.Machine

open Sys2Proof

/-- What no step changes (10_state.md R44): the cartridge, the parameters and the interrupt inputs. -/
def KeepsSetup (s t : State) : Prop :=
  t.mc.image = s.mc.image ∧ t.mc.variant = s.mc.variant ∧ t.mc.cartLoaded = s.mc.cartLoaded ∧
    t.cfg = s.cfg ∧ t.intLine = s.intLine ∧ t.intData = s.intData

/-- What only a named instruction changes (10_state.md R44), and what nothing changes. -/
def KeepsReserved (s t : State) : Prop :=
  KeepsAlternate s t ∧ t.regI = s.regI ∧ t.im = s.im ∧ KeepsIndex s t ∧ KeepsSetup s t

theorem KeepsHost.keepsSetup {s t : State} (h : KeepsHost s t) : KeepsSetup s t := by
  obtain ⟨_, _, hl, hd, hc, hi, hv, hcart⟩ := h
  exact ⟨hi, hv, hcart, hc, hl, hd⟩

/-! ### Steps that run no instruction write none of it -/

theorem State.enterHandler_keepsReserved (s : State) (handler : Word) (cycles : Nat) :
    KeepsReserved s (s.enterHandler handler cycles) := by
  obtain ⟨ha, ⟨hI, _⟩, ⟨_, _, him, _, _⟩, _, hh⟩ := s.enterHandler_keepsRest handler cycles
  exact ⟨ha, hI, him, ⟨rfl, rfl⟩, hh.keepsSetup⟩

theorem State.acceptNmi_keepsReserved (s : State) : KeepsReserved s s.acceptNmi := by
  rw [s.acceptNmi_eq]
  exact s.nmiBegun.enterHandler_keepsReserved _ _

theorem State.acceptInt_keepsReserved (s : State) : KeepsReserved s s.acceptInt := by
  rcases s.acceptInt_cases with ⟨handler, cycles, _, e⟩ | e <;> rw [e]
  · exact s.maskableBegun.enterHandler_keepsReserved handler cycles
  · exact ⟨rfl, rfl, rfl, ⟨rfl, rfl⟩, rfl, rfl, rfl, rfl, rfl, rfl⟩

theorem State.haltedCycle_keepsReserved (s : State) : KeepsReserved s s.haltedCycle := by
  rw [s.haltedCycle_eq]
  exact ⟨rfl, rfl, rfl, ⟨rfl, rfl⟩, rfl, rfl, rfl, rfl, rfl, rfl⟩

/-! ### Steps that run one -/

/-- The first byte of the fetched instruction is the byte at PC. -/
theorem State.decoded_head {s : State} {i : Instr} {b : Byte} (hd : s.decoded = .ok i)
    (hb : (encode i).head? = some b) : s.memRead s.pc = b :=
  Option.some.inj ((decode_beginsWith hd).symm.trans hb)

/-- A step either writes nothing reserved or runs an instruction, with what `ExecKeeps` says of it. -/
theorem step_keepsReserved_or_fetches {s t : State} (h : step s = .next t) :
    KeepsReserved s t ∨ ∃ i, s.fetchesAs (.ok i) ∧ ExecKeeps i s.ready t := by
  obtain ⟨_, ⟨_, _, rfl⟩ | ⟨_, rfl⟩ | ⟨_, rfl⟩ | ⟨_, _, _, rfl⟩ | ⟨_, i, hd, _, hk⟩⟩ := step_cases h
  · exact .inl s.acceptNmi_keepsReserved
  · exact .inl s.acceptInt_keepsReserved
  · exact .inl s.haltedCycle_keepsReserved
  · exact .inl ⟨rfl, rfl, rfl, ⟨rfl, rfl⟩, rfl, rfl, rfl, rfl, rfl, rfl⟩
  · exact .inr ⟨i, hd, hk⟩

/-- Settles O58: a register that changed was changed by an instruction, and `ExecKeeps` names which. -/
theorem onlyTheNamedInstructionsWrite : Obligations.OnlyTheNamedInstructionsWrite := by
  intro s t h
  rcases step_keepsReserved_or_fetches h with ⟨ha, hI, him, ⟨hx, hy⟩, hs⟩ | ⟨i, hd, hk⟩
  · exact ⟨absurd ha, absurd hI, absurd him, absurd hx, absurd hy, hs⟩
  · rw [s.ready_eq] at hk
    obtain ⟨hh, _, _, _, ha, hI, _, him, _, _, _, _, hx, hy⟩ := hk
    refine ⟨fun hne => ?_, fun hne => ?_, fun hne => ?_, fun hne => ?_, fun hne => ?_, hh.keepsSetup⟩
    · rcases ha.resolve_left hne with rfl | rfl
      · exact .inl hd
      · exact .inr hd
    · obtain rfl := hI.resolve_left hne
      exact hd
    · rcases him.resolve_left hne with rfl | rfl | rfl
      · exact .inl hd
      · exact .inr (.inl hd)
      · exact .inr (.inr hd)
    · exact State.decoded_head hd (hx.resolve_left hne)
    · exact State.decoded_head hd (hy.resolve_left hne)

end Sys2Proof.Machine
end
section
/-! SUPPORT. Reads and writes in the words of the spec's decoder rules (20_memory.md R57-R62): each notion the
statements use is the decoder's own. -/

namespace Sys2Proof.Machine

open Sys2Proof

/-! ### The notions of the statements and those of the decoder -/

theorem State.rom_eq_imageByte (s : State) (off : Nat) : s.rom off = s.imageByte off := by
  unfold State.rom State.imageByte
  split
  next v h =>
    obtain ⟨hlt, he⟩ := List.getElem?_eq_some_iff.mp h
    rw [dif_pos hlt, he]
  next h => rw [dif_neg (Nat.not_lt.mpr (List.getElem?_eq_none_iff.mp h))]

theorem State.mask_eq (s : State) : s.mask = s.mc.pageMask := rfl

/-- The AlternateChecksum variant has no cartridge RAM in slot 2 (20_memory.md R58). -/
theorem MemCtl.not_slotRam_alternate {m : MemCtl} (h : m.variant = .alternateChecksum) (n : Nat) :
    ¬ (0x8000 ≤ n ∧ m.ramEnabled = true) := by
  simp [MemCtl.ramEnabled, h]

theorem MemCtl.ramBank_eq (m : MemCtl) : m.ramBank = m.top0.toNat % 2 := by
  rw [MemCtl.ramBank, BitVec.toNat_and]
  exact Nat.and_one_is_mod _

theorem State.slot2IsRam_iff (s : State) : s.slot2IsRam ↔ s.mc.ramEnabled = true := by
  obtain ⟨h0, _, _, _⟩ := s.memRead_tops
  unfold State.slot2IsRam MemCtl.ramEnabled
  rw [h0]
  cases s.mc.variant with
  | standard => simp [BitVec.getLsbD, Nat.testBit_eq_decide_div_mod_eq]
  | alternateChecksum => simp

theorem State.pageOf_eq_pageSel (s : State) {k : Nat} (hk : k < 3) : s.pageOf k = s.mc.pageSel k := by
  have htop : s.memRead (BitVec.ofNat 16 (0xFFFD + k)) = s.mc.topCell (k + 1) :=
    s.memRead_top _ (k + 1) (by rw [BitVec.toNat_ofNat]; omega)
  unfold State.pageOf MemCtl.pageSel MemCtl.pageByte
  rw [htop, s.mask_eq]
  cases s.mc.variant <;> interval_cases k <;> rfl

theorem inRam_iff (a : Word) : inRam a = true ↔ 0xC000 ≤ a.toNat ∧ a.toNat < 0xFFFC := by
  simp [inRam]

theorem sharesCell_iff (a x : Word) :
    sharesCell a x = true ↔ a = x ∨ inRam a = true ∧ inRam x = true ∧ a.toNat % 0x2000 = x.toNat % 0x2000 := by
  simp [sharesCell, and_assoc]

theorem State.storable_iff (s : State) (a : Word) :
    s.storable a = true ↔ 0xC000 ≤ a.toNat ∨ 0x8000 ≤ a.toNat ∧ s.slot2IsRam := by
  simp [State.storable, s.slot2IsRam_iff]

/-! ### Which slot a store exchanges -/

theorem remappedSlot_ne_three (variant : Variant) (a : Word) : remappedSlot variant a ≠ some 3 := by
  unfold remappedSlot
  cases variant <;> simp only <;> split_ifs <;> simp

/-- A mapper register lies at the base of a slot or in a top cell, never in the RAM windows. -/
theorem remappedSlot_inRam (variant : Variant) (a : Word) (h : inRam a = true) : remappedSlot variant a = none := by
  have hne : ∀ b, inRam b = false → a ≠ b := by
    rintro b hb rfl
    exact Bool.false_ne_true (hb.symm.trans h)
  cases variant with
  | standard =>
    simp only [remappedSlot, if_neg (hne 0xFFFC#16 rfl), if_neg (hne 0xFFFD#16 rfl), if_neg (hne 0xFFFE#16 rfl),
      if_neg (hne 0xFFFF#16 rfl)]
  | alternateChecksum =>
    simp only [remappedSlot, if_neg (hne 0x0000#16 rfl), if_neg (hne 0x4000#16 rfl), if_neg (hne 0x8000#16 rfl)]

/-- The page selects of the AlternateChecksum variant stand at the slots' base addresses (10_state.md R40). -/
theorem remappedSlot_alternate_base {k : Nat} (hk : k < 3) :
    remappedSlot .alternateChecksum (BitVec.ofNat 16 (k * 0x4000)) = some k := by
  interval_cases k <;> rfl

/-! ### Reads -/

theorem State.memRead_rom (s : State) (a : Word) (ha : a.toNat < 0xC000)
    (hr : ¬ (0x8000 ≤ a.toNat ∧ s.mc.ramEnabled = true)) : s.memRead a = s.imageByte (s.mc.romOffset a) := by
  rw [← s.rom_eq_imageByte, State.memRead, s.mc.place_rom a ha hr]; rfl

theorem State.memRead_cram (s : State) (a : Word) (h1 : 0x8000 ≤ a.toNat) (h2 : a.toNat < 0xC000)
    (hr : s.mc.ramEnabled = true) :
    s.memRead a = Memory.read s.mc.cram (s.mc.ramBank * 0x4000 + (a.toNat - 0x8000)) := by
  rw [State.memRead, s.mc.place_cram a h1 h2 hr]; rfl

/-- An address of one RAM window reads what its mirror in the other reads (20_memory.md R62). -/
theorem State.memRead_mirror (s : State) {a x : Word} (ha : inRam a = true) (hx : inRam x = true)
    (h : a.toNat % 0x2000 = x.toNat % 0x2000) : s.memRead x = s.memRead a := by
  rw [s.memRead_inRam x hx, s.memRead_inRam a ha, h]

/-! ### Writes -/

theorem State.imageByte_memWrite (s : State) (a : Word) (v : Byte) (off : Nat) :
    (s.memWrite a v).imageByte off = s.imageByte off := by
  simp only [State.imageByte, State.memWrite_mc, MemCtl.write_image, State.memWrite_cfg]

/-- A store to a RAM window is read back there and at the mirror in the other window. -/
theorem State.memRead_memWrite_windows (s : State) (a x : Word) (v : Byte) (ha : inRam a = true)
    (hx : inRam x = true) (h : a.toNat % 0x2000 = x.toNat % 0x2000) :
    (s.memWrite a v).memRead a = v ∧ (s.memWrite a v).memRead x = v := by
  have hs := s.memRead_memWrite_same a v ((s.storable_iff a).mpr (.inl ((inRam_iff a).mp ha).1))
  exact ⟨hs, (State.memRead_mirror _ ha hx h).trans hs⟩

/-- Where the decoder leads to ROM, only a page select of the AlternateChecksum variant stores anything
(20_memory.md R61). -/
theorem MemCtl.write_rom_eq_self (m : MemCtl) (a : Word) (v : Byte) (ha : a.toNat < 0xC000)
    (hr : ¬ (0x8000 ≤ a.toNat ∧ m.ramEnabled = true))
    (hsel : ¬ (m.variant = .alternateChecksum ∧ a ∈ [0x0000#16, 0x4000#16, 0x8000#16])) : m.write a v = m := by
  rw [m.write_rom a v _ (m.place_rom a ha hr)]
  cases hv : m.variant with
  | standard => rfl
  | alternateChecksum =>
    have hne : a ∉ [0x0000#16, 0x4000#16, 0x8000#16] := fun h => hsel ⟨hv, h⟩
    simp only [List.mem_cons, List.not_mem_nil, or_false, not_or] at hne
    obtain ⟨h0, h1, h2⟩ := hne
    simp only [MemCtl.writeAltSlot, if_neg h0, if_neg h1, if_neg h2]

/-- In the AlternateChecksum variant a store to the base of a slot sets that slot's page select. -/
theorem MemCtl.write_alternate_base (m : MemCtl) {k : Nat} (v : Byte) (hk : k < 3)
    (hv : m.variant = .alternateChecksum) : (m.write (BitVec.ofNat 16 (k * 0x4000)) v).pageByte k = v := by
  have hp := m.place_rom (BitVec.ofNat 16 (k * 0x4000)) (by rw [BitVec.toNat_ofNat]; omega)
    (MemCtl.not_slotRam_alternate hv _)
  rw [m.write_rom _ v _ hp, hv]
  interval_cases k <;> simp [MemCtl.writeAltSlot, MemCtl.pageByte, hv]

end Sys2Proof.Machine
end
section
/-! PROOF. Memory: what every address reads (O49), what reads show after a write (O50, O51), and the host's
accessors (O52). -/

namespace Sys2Proof.Machine

open Sys2Proof

/-- Settles O49: one read lemma for each kind of cell the decoder leads to. -/
theorem readsFollowTheDecoder : Obligations.ReadsFollowTheDecoder := by
  intro s a
  obtain ⟨h0, h1, h2, h3⟩ := s.memRead_tops
  rw [s.slot2IsRam_iff, h0]
  refine ⟨fun ha hv => ?_, fun ha hun hr => ?_, fun hlo ha hr => ?_, fun hlo ha => ?_, fun hlo ha => ?_,
    fun e => e ▸ h0, fun e => e ▸ h1, fun e => e ▸ h2, fun e => e ▸ h3⟩
  · rw [s.memRead_rom a (by omega) (by omega), MemCtl.romOffset, if_pos ⟨hv, ha⟩]
  · rw [s.memRead_rom a ha hr, MemCtl.romOffset, if_neg hun, s.pageOf_eq_pageSel (by omega)]
  · rw [s.memRead_cram a hlo ha hr, MemCtl.ramBank_eq]
  · rw [s.memRead_inRam a ((inRam_iff a).mpr (by omega)), show a.toNat % 0x2000 = a.toNat - 0xC000 by omega]
  · rw [s.memRead_inRam a ((inRam_iff a).mpr (by omega)), show a.toNat % 0x2000 = a.toNat - 0xE000 by omega]

/-- The top 4 bytes of the lower window have no mirror: their addresses in the upper one are the top cells. -/
theorem State.outside_lowerWindowTop (s : State) (a x : Word) (hlo : 0xDFFC ≤ a.toNat) (hhi : a.toNat ≤ 0xDFFF)
    (hx : x ≠ a) : s.outside a x := by
  have ha : inRam a = true := (inRam_iff a).mpr (by omega)
  refine ⟨Bool.eq_false_iff.mpr fun h => ?_, by rw [remappedSlot_inRam _ a ha]; simp⟩
  rcases (sharesCell_iff a x).mp h with rfl | ⟨_, hxr, hmod⟩
  · exact hx rfl
  · have := (inRam_iff x).mp hxr
    exact hx (BitVec.eq_of_toNat_eq (by omega))

/-- A top cell is seen at its own address only; as a mapper register it exchanges a slot below 0xC000. -/
theorem State.outside_topCell (s : State) (a x : Word) (ha : 0xFFFC ≤ a.toNat) (hx : x ≠ a)
    (hlo : 0xC000 ≤ x.toNat) : s.outside a x := by
  refine ⟨Bool.eq_false_iff.mpr fun h => ?_, ?_⟩
  · rcases (sharesCell_iff a x).mp h with rfl | ⟨har, _, _⟩
    · exact hx rfl
    · have := (inRam_iff a).mp har
      omega
  · rw [show x.toNat / 0x4000 = 3 by have := x.isLt; omega]
    exact remappedSlot_ne_three _ a

/-- Settles O50: the two windows share their cells but for the top 4 addresses, a store where the decoder can
store is read back, and a store to ROM changes nothing but a page select. -/
theorem writesAreSeenWhereTheDecoderSays : Obligations.WritesAreSeenWhereTheDecoderSays := by
  intro s a v
  refine ⟨fun hlo hhi => ?_, fun hlo hhi => ?_, fun hlo hhi => ⟨?_, fun x hx => ?_⟩,
    fun ha => ⟨?_, fun x hx hxlo => ?_⟩, fun hlo _ hr => ?_, fun ha hsel x => ?_⟩
  · have hm : (a + 0x2000#16).toNat = a.toNat + 0x2000 := by bv_omega
    exact s.memRead_memWrite_windows a _ v ((inRam_iff a).mpr (by omega)) ((inRam_iff _).mpr (by omega)) (by omega)
  · have hm : (a - 0x2000#16).toNat = a.toNat - 0x2000 := by bv_omega
    exact s.memRead_memWrite_windows a _ v ((inRam_iff a).mpr (by omega)) ((inRam_iff _).mpr (by omega)) (by omega)
  · exact s.memRead_memWrite_same a v ((s.storable_iff a).mpr (.inl (by omega)))
  · exact s.memRead_memWrite_outside a x v (s.outside_lowerWindowTop a x hlo hhi hx)
  · exact s.memRead_memWrite_same a v ((s.storable_iff a).mpr (.inl (by omega)))
  · exact s.memRead_memWrite_outside a x v (s.outside_topCell a x ha hx hxlo)
  · exact s.memRead_memWrite_same a v ((s.storable_iff a).mpr (.inr ⟨hlo, hr⟩))
  · rw [s.slot2IsRam_iff] at ha
    have hrom : ¬ (0x8000 ≤ a.toNat ∧ s.mc.ramEnabled = true) := fun ⟨hslot, hr⟩ =>
      (ha.resolve_left (Nat.not_lt.mpr hslot)).2 hr
    exact State.memRead_congr s _ x (s.mc.write_rom_eq_self a v (by omega) hrom hsel) rfl

/-- An address of slot k reads the image byte of the page just selected for it. -/
theorem State.memRead_selectedPage (s : State) {k : Nat} (v : Byte) (x : Word) (hk : k < 3)
    (hv : s.mc.variant = .alternateChecksum) (hx : x.toNat / 0x4000 = k) :
    (s.memWrite (BitVec.ofNat 16 (k * 0x4000)) v).memRead x =
      s.imageByte (x.toNat % 0x4000 + (v &&& s.mask).toNat * 0x4000) := by
  have hvar : (s.memWrite (BitVec.ofNat 16 (k * 0x4000)) v).mc.variant = .alternateChecksum := by
    rw [State.memWrite_mc, MemCtl.write_variant, hv]
  rw [State.memRead_rom _ x (by omega) (MemCtl.not_slotRam_alternate hvar _), State.imageByte_memWrite,
    MemCtl.romOffset, hvar, if_neg (by simp), hx, MemCtl.pageSel, State.memWrite_mc,
    s.mc.write_alternate_base v hk hv, MemCtl.pageMask, MemCtl.write_image, s.mask_eq, MemCtl.pageMask]

/-- Settles O51: the slot's own page byte is the one written, and the other addresses are outside the store. -/
theorem alternatePageSelects : Obligations.AlternatePageSelects := by
  intro s k v x hk hv
  by_cases hx : x.toNat / 0x4000 = k
  · rw [if_pos hx, s.memRead_selectedPage v x hk hv hx]
  · rw [if_neg hx]
    have hbase : (BitVec.ofNat 16 (k * 0x4000)).toNat = k * 0x4000 := by rw [BitVec.toNat_ofNat]; omega
    refine s.memRead_memWrite_outside _ x v ⟨Bool.eq_false_iff.mpr fun h => ?_, ?_⟩
    · rcases (sharesCell_iff _ x).mp h with rfl | ⟨hr, _, _⟩
      · exact hx (by omega)
      · have := (inRam_iff _).mp hr
        omega
    · rw [hv, remappedSlot_alternate_base hk]
      exact fun h => hx (Option.some.inj h).symm

/-- Settles O52: the two branches of each accessor, with address and value as numbers. -/
theorem hostAccessors : Obligations.HostAccessors := by
  intro s address value
  refine ⟨fun h => ⟨if_pos h, if_pos h⟩, fun hlo hhi => ?_⟩
  have hin : ¬ (address < 0 ∨ 0xFFFF < address) := by omega
  have hw : s.mcWrite address value = s.memWrite (BitVec.ofInt 16 address) (BitVec.ofInt 8 value) := if_neg hin
  refine ⟨BitVec.ofInt 16 address, BitVec.ofInt 8 value, ?_, ?_, if_neg hin, hw, hw ▸ s.memWrite_stored _ _⟩
  · rw [BitVec.toNat_ofInt]; omega
  · rw [BitVec.toNat_ofInt]; omega

end Sys2Proof.Machine
end
section
/-! PROOF. Loading a cartridge (O48): the detection rule as a sum of two words, and the machine after the load. -/

namespace Sys2Proof.Machine

open Sys2Proof

/-! ### The detection rule (20_memory.md R67) -/

/-- Two little-endian words sum to 0 modulo 0x10000 as numbers. -/
theorem checksumVariant_alternate_iff (b6 b7 b8 b9 : Byte) :
    checksumVariant b6 b7 b8 b9 = .alternateChecksum ↔
      (b7.toNat * 256 + b6.toNat + (b9.toNat * 256 + b8.toNat)) % 0x10000 = 0 := by
  have hsum : pack b7 b6 + pack b9 b8 = 0#16 ↔
      (b7.toNat * 256 + b6.toNat + (b9.toNat * 256 + b8.toNat)) % 0x10000 = 0 := by
    rw [← pack_toNat, ← pack_toNat, ← BitVec.toNat_inj, BitVec.toNat_add]; rfl
  rw [← hsum, checksumVariant]
  split
  next h => exact iff_of_true rfl h
  next h => exact iff_of_false (by simp) h

/-- An image long enough is judged by its bytes at 0x7FE6 to 0x7FE9. -/
theorem detectVariant_of_bytes {image : List Byte} {b6 b7 b8 b9 : Byte} (h6 : image[0x7FE6]? = some b6)
    (h7 : image[0x7FE7]? = some b7) (h8 : image[0x7FE8]? = some b8) (h9 : image[0x7FE9]? = some b9) :
    detectVariant image = checksumVariant b6 b7 b8 b9 := by
  obtain ⟨hlen, _⟩ := List.getElem?_eq_some_iff.mp h9
  rw [detectVariant, if_neg (by omega)]
  simp only [List.getD_eq_getElem?_getD, h6, h7, h8, h9, Option.getD_some]

/-- The image has the four bytes, and the words they form sum to 0 modulo 0x10000. -/
theorem detectVariant_alternate_iff (image : List Byte) :
    detectVariant image = .alternateChecksum ↔ ∃ w1 w2 : Nat, ∃ b6 b7 b8 b9 : Byte,
      image[0x7FE6]? = some b6 ∧ image[0x7FE7]? = some b7 ∧ image[0x7FE8]? = some b8 ∧
      image[0x7FE9]? = some b9 ∧ w1 = b7.toNat * 256 + b6.toNat ∧ w2 = b9.toNat * 256 + b8.toNat ∧
      (w1 + w2) % 0x10000 = 0 := by
  constructor
  · intro h
    have hlen : 0x7FEA ≤ image.length := by
      by_contra hs
      rw [detectVariant, if_pos (by omega)] at h
      cases h
    have hat : ∀ n, n < 0x7FEA → ∃ b, image[n]? = some b := fun n hn =>
      ⟨_, List.getElem?_eq_getElem (Nat.lt_of_lt_of_le hn hlen)⟩
    obtain ⟨b6, h6⟩ := hat 0x7FE6 (by decide)
    obtain ⟨b7, h7⟩ := hat 0x7FE7 (by decide)
    obtain ⟨b8, h8⟩ := hat 0x7FE8 (by decide)
    obtain ⟨b9, h9⟩ := hat 0x7FE9 (by decide)
    rw [detectVariant_of_bytes h6 h7 h8 h9] at h
    exact ⟨_, _, b6, b7, b8, b9, h6, h7, h8, h9, rfl, rfl, (checksumVariant_alternate_iff b6 b7 b8 b9).mp h⟩
  · rintro ⟨_, _, b6, b7, b8, b9, h6, h7, h8, h9, rfl, rfl, hsum⟩
    rw [detectVariant_of_bytes h6 h7 h8 h9]
    exact (checksumVariant_alternate_iff b6 b7 b8 b9).mpr hsum

/-! ### The load (70_reset_and_hazards.md R301) -/

/-- The machine with the cartridge in place, before the reset of the load. -/
def State.withImage (s : State) (image : List Byte) : State :=
  { s with mc := { s.mc with image := image, variant := detectVariant image } }

theorem State.loadCartridge_eq (s : State) (bytes : List Byte) :
    s.loadCartridge bytes =
      { (s.withImage (stripHeader bytes)).hostReset with
        mc := { (s.withImage (stripHeader bytes)).hostReset.mc with cartLoaded := true } } := rfl

theorem State.loadCartridge_cartridge (s : State) (bytes : List Byte) :
    (s.loadCartridge bytes).mc.image = stripHeader bytes ∧
      (s.loadCartridge bytes).mc.variant = detectVariant (stripHeader bytes) := by
  obtain ⟨hi, hv, _⟩ := (s.withImage (stripHeader bytes)).hostReset_cartridge
  exact ⟨hi, hv⟩

/-- But for cart_loaded, a load is the reset of the machine with the cartridge in place. -/
theorem State.loadCartridge_but_cartLoaded (s : State) (bytes : List Byte) :
    { s.loadCartridge bytes with mc := { (s.loadCartridge bytes).mc with cartLoaded := s.mc.cartLoaded } } =
      (s.withImage (stripHeader bytes)).hostReset := by
  obtain ⟨_, _, hl⟩ := (s.withImage (stripHeader bytes)).hostReset_cartridge
  rw [s.loadCartridge_eq, show s.mc.cartLoaded = _ from hl.symm]

/-- Settles O48: the image and the variant after the load, and `loadCartridge_but_cartLoaded`. -/
theorem loadStripsDetectsAndResets : Obligations.LoadStripsDetectsAndResets := by
  intro s bytes
  obtain ⟨hi, hv⟩ := s.loadCartridge_cartridge bytes
  refine ⟨s.loadCartridge bytes, rfl, hi, ?_, rfl, rfl, rfl, rfl, ?_⟩
  · rw [hi, hv]
    exact detectVariant_alternate_iff _
  · rw [hi, hv]
    exact s.loadCartridge_but_cartLoaded bytes

end Sys2Proof.Machine
end
section
/-! PROOF. Decoding words written out from the spec (O53), and decoding an encoding (O54): the opcode byte's fields
select the table row (30_encoding.md R78), and the row reads the operands back. -/

namespace Sys2Proof

/-- Settles O53: the decoder runs on each word. -/
theorem specWordsDecode : Obligations.SpecWordsDecode := by
  refine ⟨?_, ?_, ?_, ?_, ?_, ?_, ?_, ?_, ?_, ?_, ?_, ?_, ?_, ?_, ?_, ?_⟩ <;> decide

/-! ### What an encoding writes, the decoder reads back -/

/-- The fields of an opcode byte (30_encoding.md R78). -/
theorem opXyz_fields {x y z : Nat} (hx : x < 4) (hy : y < 8) (hz : z < 8) :
    (opXyz x y z).toNat / 64 = x ∧ (opXyz x y z).toNat / 8 % 8 = y ∧ (opXyz x y z).toNat % 8 = z := by
  rw [opXyz, BitVec.toNat_ofNat, Nat.mod_eq_of_lt (by omega)]
  omega

theorem Reg8.code_lt (r : Reg8) : r.code < 8 := by cases r <;> decide

theorem pickReg_code (r : Reg8) (reg : Reg8 → Instr) (indHl : Instr) : pickReg r.code reg indHl = reg r := by
  cases r <;> rfl

/-- The restart targets are the multiples of 8 below 64 (30_encoding.md R85). -/
theorem restartTarget_iff (p : Byte) : restartTarget p = true ↔ ∃ t : Fin 8, p = BitVec.ofNat 8 (t * 8) := by
  revert p
  decide

/-! ### The opcode bytes of an encoding: the first, the first two, or the first and the fourth (30_encoding.md R86) -/

theorem decodeBytes_cons (b0 : Byte) (rest : List Byte) :
    decodeBytes (b0 :: rest) = decode b0 (rest.getD 0 0#8) (rest.getD 1 0#8) (rest.getD 2 0#8) := rfl

theorem decodeBytes_cons₂ (b0 b1 : Byte) (rest : List Byte) :
    decodeBytes (b0 :: b1 :: rest) = decode b0 b1 (rest.getD 0 0#8) (rest.getD 1 0#8) := rfl

theorem decodeBytes_cons₄ (b0 b1 b2 b3 : Byte) (rest : List Byte) :
    decodeBytes (b0 :: b1 :: b2 :: b3 :: rest) = decode b0 b1 b2 b3 := rfl

theorem decodeBytes_cb (op : Byte) (rest : List Byte) : decodeBytes (0xCB#8 :: op :: rest) = decodeCb op :=
  decodeBytes_cons₂ _ _ _

theorem decodeBytes_xyCb (xy : IdxReg) (d op : Byte) (rest : List Byte) :
    decodeBytes (xy.byte :: 0xCB#8 :: d :: op :: rest) = decodeXyCb xy d op := by
  cases xy <;> exact decodeBytes_cons₄ _ _ _ _ _

/-- A 16-bit operand is read back from its two bytes. -/
theorem decodeBytes_word {bs : List Byte} {f : Word → Instr} (nn : Word)
    (h : decodeBytes bs = .ok (f (pack (hi8 nn) (lo8 nn)))) : decodeBytes bs = .ok (f nn) := by
  rwa [pack_hi8_lo8] at h

/-! ### BIT, RES and SET: the bit number is the field y (30_encoding.md R98, R99) -/

theorem decodeCb_bit (b : BitVec 3) {z : Nat} (hz : z < 8) :
    decodeCb (opXyz 1 b.toNat z) = .ok (pickReg z (.bitR b) (.bitIndHl b)) := by
  obtain ⟨hx, hy, hz⟩ := opXyz_fields (x := 1) (by decide) b.isLt hz
  simp [decodeCb, hx, hy, hz]

theorem decodeCb_res (b : BitVec 3) {z : Nat} (hz : z < 8) :
    decodeCb (opXyz 2 b.toNat z) = .ok (pickReg z (.resR b) (.resIndHl b)) := by
  obtain ⟨hx, hy, hz⟩ := opXyz_fields (x := 2) (by decide) b.isLt hz
  simp [decodeCb, hx, hy, hz]

theorem decodeCb_set (b : BitVec 3) {z : Nat} (hz : z < 8) :
    decodeCb (opXyz 3 b.toNat z) = .ok (pickReg z (.setR b) (.setIndHl b)) := by
  obtain ⟨hx, hy, hz⟩ := opXyz_fields (x := 3) (by decide) b.isLt hz
  simp [decodeCb, hx, hy, hz]

theorem decodeXyCb_bit (b : BitVec 3) (xy : IdxReg) (d : Byte) :
    decodeXyCb xy d (opXyz 1 b.toNat 6) = .ok (.bitIdx b xy d) := by
  obtain ⟨hx, hy, hz⟩ := opXyz_fields (x := 1) (z := 6) (by decide) b.isLt (by decide)
  simp [decodeXyCb, hx, hy, hz]

theorem decodeXyCb_res (b : BitVec 3) (xy : IdxReg) (d : Byte) :
    decodeXyCb xy d (opXyz 2 b.toNat 6) = .ok (.resIdx b xy d) := by
  obtain ⟨hx, hy, hz⟩ := opXyz_fields (x := 2) (z := 6) (by decide) b.isLt (by decide)
  simp [decodeXyCb, hx, hy, hz]

theorem decodeXyCb_set (b : BitVec 3) (xy : IdxReg) (d : Byte) :
    decodeXyCb xy d (opXyz 3 b.toNat 6) = .ok (.setIdx b xy d) := by
  obtain ⟨hx, hy, hz⟩ := opXyz_fields (x := 3) (z := 6) (by decide) b.isLt (by decide)
  simp [decodeXyCb, hx, hy, hz]

/-! ### Every instruction -/

/-- One line for each place of the opcode bytes and each way operands are encoded: beside the opcode, in a field of
it by a finite code, as the two bytes of a word, or as a bit number. -/
theorem decodeBytes_encode (i : Instr) (rest : List Byte) (hw : i.wellFormed = true) :
    decodeBytes (encode i ++ rest) = .ok i := by
  cases i with
  -- one opcode byte
  | ldAIndBc | ldAIndDe | ldIndBcA | ldIndDeA | ldSpHl | exDeHl | exAfAf | exx | exIndSpHl | addAIndHl | adcAIndHl
  | subIndHl | sbcAIndHl | andIndHl | xorIndHl | orIndHl | cpIndHl | incIndHl | decIndHl | daa | cpl | ccf | scf
  | nop | halt | di | ei | rlca | rla | rrca | rra | jpIndHl | ret | ldIndHlN | addAN | adcAN | subN | sbcAN | andN
  | xorN | orN | cpN | jrE | djnzE | inAIndN | outIndNA => exact decodeBytes_cons _ _
  | ldAIndNn nn | ldIndNnA nn | ldHlIndNn nn | ldIndNnHl nn | jpNn nn | callNn nn =>
    exact decodeBytes_word nn (decodeBytes_cons _ _)
  | ldRR r s => cases r <;> cases s <;> exact decodeBytes_cons _ _
  | ldRN r | ldRIndHl r | ldIndHlR r | addAR r | adcAR r | subR r | sbcAR r | andR r | xorR r | orR r | cpR r
  | incR r | decR r => cases r <;> exact decodeBytes_cons _ _
  | ldDdNn dd nn => cases dd <;> exact decodeBytes_word nn (decodeBytes_cons _ _)
  | addHlSs ss | incSs ss | decSs ss => cases ss <;> exact decodeBytes_cons _ _
  | pushQq qq | popQq qq => cases qq <;> exact decodeBytes_cons _ _
  | jpCcNn cc nn | callCcNn cc nn => cases cc <;> exact decodeBytes_word nn (decodeBytes_cons _ _)
  | retCc cc => cases cc <;> exact decodeBytes_cons _ _
  | jrCcE cc =>
    cases cc with
    | nz | z | nc | c => exact decodeBytes_cons _ _
    | po | pe | p | m => cases hw
  | rstP p =>
    obtain ⟨t, rfl⟩ := (restartTarget_iff p).mp hw
    fin_cases t <;> exact decodeBytes_cons _ _
  -- CB or ED, and a second opcode byte
  | rlcIndHl | rrcIndHl | rlIndHl | rrIndHl | slaIndHl | sraIndHl | srlIndHl | ldAI | ldAR | ldIA | ldRA | ldi | ldir
  | ldd | lddr | cpi | cpir | cpd | cpdr | neg | im0 | im1 | im2 | rld | rrd | reti | retn | ini | inir | ind | indr
  | outi | otir | outd | otdr => exact decodeBytes_cons₂ _ _ _
  | rlcR r | rrcR r | rlR r | rrR r | slaR r | sraR r | srlR r | inRIndC r | outIndCR r =>
    cases r <;> exact decodeBytes_cons₂ _ _ _
  | adcHlSs ss | sbcHlSs ss => cases ss <;> exact decodeBytes_cons₂ _ _ _
  | ldDdIndNn dd nn => cases dd <;> exact decodeBytes_word nn (decodeBytes_cons₂ _ _ _)
  | ldIndNnDd nn dd => cases dd <;> exact decodeBytes_word (f := (.ldIndNnDd · _)) nn (decodeBytes_cons₂ _ _ _)
  | bitR b r => exact (decodeBytes_cb _ _).trans ((decodeCb_bit b r.code_lt).trans (by rw [pickReg_code]))
  | resR b r => exact (decodeBytes_cb _ _).trans ((decodeCb_res b r.code_lt).trans (by rw [pickReg_code]))
  | setR b r => exact (decodeBytes_cb _ _).trans ((decodeCb_set b r.code_lt).trans (by rw [pickReg_code]))
  | bitIndHl b => exact (decodeBytes_cb _ _).trans (decodeCb_bit b (z := 6) (by decide))
  | resIndHl b => exact (decodeBytes_cb _ _).trans (decodeCb_res b (z := 6) (by decide))
  | setIndHl b => exact (decodeBytes_cb _ _).trans (decodeCb_set b (z := 6) (by decide))
  -- DD or FD, and a second opcode byte
  | addAIdx xy | adcAIdx xy | subIdx xy | sbcAIdx xy | andIdx xy | xorIdx xy | orIdx xy | cpIdx xy | incIdx xy
  | decIdx xy | ldIdxN xy | ldSpXy xy | pushXy xy | popXy xy | exIndSpXy xy | incXy xy | decXy xy | jpIndXy xy =>
    cases xy <;> exact decodeBytes_cons₂ _ _ _
  | ldRIdx r xy | ldIdxR xy _ r => cases xy <;> cases r <;> exact decodeBytes_cons₂ _ _ _
  | addXyPp xy pp => cases xy <;> cases pp <;> exact decodeBytes_cons₂ _ _ _
  | ldXyNn xy nn | ldXyIndNn xy nn => cases xy <;> exact decodeBytes_word nn (decodeBytes_cons₂ _ _ _)
  | ldIndNnXy nn xy => cases xy <;> exact decodeBytes_word (f := (.ldIndNnXy · _)) nn (decodeBytes_cons₂ _ _ _)
  -- DD CB or FD CB, and the opcode in the fourth byte
  | rlcIdx xy | rrcIdx xy | rlIdx xy | rrIdx xy | slaIdx xy | sraIdx xy | srlIdx xy =>
    cases xy <;> exact decodeBytes_cons₄ _ _ _ _ _
  | bitIdx b xy d => exact (decodeBytes_xyCb xy d _ _).trans (decodeXyCb_bit b xy d)
  | resIdx b xy d => exact (decodeBytes_xyCb xy d _ _).trans (decodeXyCb_res b xy d)
  | setIdx b xy d => exact (decodeBytes_xyCb xy d _ _).trans (decodeXyCb_set b xy d)

/-- Settles O54: `decodeBytes_encode`. -/
theorem decodeOfEncodeIsTheInstruction : Obligations.DecodeOfEncodeIsTheInstruction := decodeBytes_encode

end Sys2Proof
end
section
/-! PROOF. The encoding of what was decoded (O55), one lemma for each table of the opcode map (30_encoding.md R86):
what decodes is well-formed, and the bytes of its encoding after the first are bytes that were decoded. The first is
`decode_beginsWith`. -/

namespace Sys2Proof

/-- `i` is well-formed, and `bs` begins with the bytes of its encoding after the first. -/
def Instr.continuesWith (i : Instr) (bs : List Byte) : Prop :=
  i.wellFormed = true ∧ ∃ rest, (encode i).tail ++ rest = bs

/-- A 16-bit operand is written as the two bytes it was read from. -/
theorem Instr.continuesWith_word {i : Instr} {lo hi : Byte} (bs rest : List Byte) (hw : i.wellFormed = true)
    (h : (encode i).tail = bs ++ [lo8 (pack hi lo), hi8 (pack hi lo)]) : i.continuesWith (bs ++ lo :: hi :: rest) :=
  ⟨hw, rest, by rw [h, lo8_pack, hi8_pack, List.append_assoc]; rfl⟩

/-- Every byte is the opcode byte of some fields. -/
theorem exists_opXyz (b : Byte) : ∃ x y z, x < 4 ∧ y < 8 ∧ z < 8 ∧ b = opXyz x y z :=
  ⟨_, _, _, Nat.div_lt_of_lt_mul b.isLt, Nat.mod_lt _ (by decide), Nat.mod_lt _ (by decide), byte_eq_opXyz b⟩

/-- What holds of the register forms of code z and of the (HL) form for z = 6 holds of the form z picks. -/
theorem pickReg_code_induction (P : Instr → Prop) {z : Nat} (hz : z < 8) {reg : Reg8 → Instr} {indHl : Instr}
    (hreg : ∀ r : Reg8, r.code = z → P (reg r)) (hind : z = 6 → P indHl) : P (pickReg z reg indHl) := by
  match z, hz with
  | 6, _ => exact hind rfl
  | 0, _ | 1, _ | 2, _ | 3, _ | 4, _ | 5, _ | 7, _ => exact hreg _ rfl

/-- The conditions of the rows 20, 28, 30 and 38 are the four of JR (30_encoding.md R91). -/
theorem Cond.allowedInJr_ofCode {n : Nat} (hn : n < 4) : (Cond.ofCode n).allowedInJr = true := by
  interval_cases n <;> rfl

/-! ### Rows 0x00 to 0xBF of the first map -/

theorem decodeX0_continuesWith (y z : Nat) (b1 b2 b3 : Byte) :
    (decodeX0 y z b1 b2).continuesWith [b1, b2, b3] := by
  unfold decodeX0
  split
  case h_5 | h_6 | h_7 =>
    exact pickReg_induction (·.continuesWith _) _ _ _ (fun _ => ⟨rfl, _, rfl⟩) ⟨rfl, _, rfl⟩
  · split
    case h_5 => exact ⟨Cond.allowedInJr_ofCode (Nat.mod_lt _ (by decide)), _, rfl⟩
    all_goals exact ⟨rfl, _, rfl⟩
  · split
    · exact Instr.continuesWith_word [] _ rfl rfl
    · exact ⟨rfl, _, rfl⟩
  · split
    case h_1 | h_2 | h_3 | h_4 => exact ⟨rfl, _, rfl⟩
    all_goals exact Instr.continuesWith_word [] _ rfl rfl
  · split <;> exact ⟨rfl, _, rfl⟩
  · split <;> exact ⟨rfl, _, rfl⟩

theorem decodeX1_continuesWith (y z : Nat) (bs : List Byte) : (decodeX1 y z).continuesWith bs := by
  unfold decodeX1
  split <;> exact ⟨rfl, _, rfl⟩

theorem aluOperand_continuesWith (y z : Nat) (bs : List Byte) : (aluOperand y z).continuesWith bs := by
  unfold aluOperand
  split <;> exact pickReg_induction (·.continuesWith bs) _ _ _ (fun _ => ⟨rfl, _, rfl⟩) ⟨rfl, _, rfl⟩

/-! ### The tables behind CB, ED, and DD or FD -/

theorem decodeCb_continuesWith {op b2 b3 : Byte} {i : Instr} (h : decodeCb op = .ok i) :
    i.continuesWith [op, b2, b3] := by
  obtain ⟨x, y, z, hx, hy, hz, rfl⟩ := exists_opXyz op
  obtain ⟨ex, ey, ez⟩ := opXyz_fields hx hy hz
  have hb : (BitVec.ofNat 3 y).toNat = y := Nat.mod_eq_of_lt hy
  simp only [decodeCb, ex, ey, ez] at h
  match x, hx, h with
  | 0, _, h =>
    interval_cases y <;> cases h <;>
      exact pickReg_code_induction (·.continuesWith _) hz (fun r e => e ▸ ⟨rfl, _, rfl⟩) (fun e => e ▸ ⟨rfl, _, rfl⟩)
  | 1, _, h | 2, _, h | 3, _, h =>
    cases h
    exact pickReg_code_induction (·.continuesWith _) hz (fun r e => ⟨rfl, _, by rw [encode, hb, e]; rfl⟩)
      (fun e => ⟨rfl, _, by rw [encode, hb, e]; rfl⟩)

theorem decodeXyCb_continuesWith {xy : IdxReg} {d op : Byte} {i : Instr} (h : decodeXyCb xy d op = .ok i) :
    i.continuesWith [0xCB#8, d, op] := by
  obtain ⟨x, y, z, hx, hy, hz, rfl⟩ := exists_opXyz op
  obtain ⟨ex, ey, ez⟩ := opXyz_fields hx hy hz
  have hb : (BitVec.ofNat 3 y).toNat = y := Nat.mod_eq_of_lt hy
  simp only [decodeXyCb, ex, ey, ez] at h
  split at h
  next hz6 =>
    subst hz6
    match x, hx, h with
    | 0, _, h => interval_cases y <;> cases h <;> exact ⟨rfl, _, rfl⟩
    | 1, _, h | 2, _, h | 3, _, h =>
      cases h
      exact ⟨rfl, _, by rw [encode, hb]; rfl⟩
  next => cases h

theorem decodeEdX1_continuesWith {y z : Nat} {b2 b3 : Byte} {i : Instr} (hy : y < 8) (hz : z < 8)
    (h : decodeEdX1 y z b2 b3 = .ok i) : i.continuesWith [opXyz 1 y z, b2, b3] := by
  match z, hz, h with
  | 3, _, h => interval_cases y <;> cases h <;> exact Instr.continuesWith_word [_] _ rfl rfl
  | 0, _, h | 1, _, h | 2, _, h | 4, _, h | 5, _, h | 6, _, h | 7, _, h =>
    interval_cases y <;> cases h <;> exact ⟨rfl, _, rfl⟩

theorem decodeEdX2_continuesWith {y z : Nat} {i : Instr} (bs : List Byte) (h : decodeEdX2 y z = .ok i) :
    i.continuesWith (opXyz 2 y z :: bs) := by
  unfold decodeEdX2 at h
  split at h <;> cases h <;> exact ⟨rfl, _, rfl⟩

theorem decodeEd_continuesWith {op b2 b3 : Byte} {i : Instr} (h : decodeEd op b2 b3 = .ok i) :
    i.continuesWith [op, b2, b3] := by
  obtain ⟨x, y, z, hx, hy, hz, rfl⟩ := exists_opXyz op
  obtain ⟨ex, ey, ez⟩ := opXyz_fields hx hy hz
  simp only [decodeEd, ex, ey, ez] at h
  match x, hx, h with
  | 1, _, h => exact decodeEdX1_continuesWith hy hz h
  | 2, _, h => exact decodeEdX2_continuesWith _ h
  | 0, _, h | 3, _, h => cases h

theorem aluIndexed_continuesWith {y : Nat} (hy : y < 8) (xy : IdxReg) (d b : Byte) :
    (aluIndexed y xy d).continuesWith [opXyz 2 y 6, d, b] := by
  interval_cases y <;> exact ⟨rfl, _, rfl⟩

theorem decodeXy_continuesWith {xy : IdxReg} {op b2 b3 : Byte} {i : Instr} (h : decodeXy xy op b2 b3 = .ok i) :
    i.continuesWith [op, b2, b3] := by
  obtain ⟨x, y, z, hx, hy, hz, rfl⟩ := exists_opXyz op
  obtain ⟨ex, ey, ez⟩ := opXyz_fields hx hy hz
  simp only [decodeXy, ex, ey, ez] at h
  interval_cases x <;> simp only at h
  · split at h
    case h_9 =>
      split at h
      next hodd =>
        cases h
        obtain ⟨p, rfl⟩ : ∃ p, y = 2 * p + 1 := ⟨y / 2, by omega⟩
        have hp : p < 4 := by omega
        interval_cases p <;> exact ⟨rfl, _, rfl⟩
      next => cases h
    case h_1 | h_2 | h_4 => cases h; exact Instr.continuesWith_word [_] _ rfl rfl
    all_goals cases h <;> exact ⟨rfl, _, rfl⟩
  · interval_cases y <;> interval_cases z <;> cases h <;> exact ⟨rfl, _, rfl⟩
  · split at h
    next hz6 => cases h; subst hz6; exact aluIndexed_continuesWith hy xy b2 b3
    next => cases h
  · split at h
    case h_1 => exact decodeXyCb_continuesWith h
    all_goals cases h <;> exact ⟨rfl, _, rfl⟩

/-! ### Rows 0xC0 to 0xFF, and the decoder -/

theorem aluImmediate_continuesWith (y : Nat) (n : Byte) (bs : List Byte) :
    (aluImmediate y n).continuesWith (n :: bs) := by
  unfold aluImmediate
  split <;> exact ⟨rfl, _, rfl⟩

theorem decodeX3_continuesWith {y z : Nat} {b1 b2 b3 : Byte} {i : Instr} (hy : y < 8)
    (h : decodeX3 y z b1 b2 b3 = .ok i) : i.continuesWith [b1, b2, b3] := by
  unfold decodeX3 at h
  split at h
  · cases h; exact ⟨rfl, _, rfl⟩
  · split at h <;> cases h <;> exact ⟨rfl, _, rfl⟩
  · cases h; exact Instr.continuesWith_word [] _ rfl rfl
  · split at h
    case h_2 => exact decodeCb_continuesWith h
    case h_1 => cases h; exact Instr.continuesWith_word [] _ rfl rfl
    all_goals cases h; exact ⟨rfl, _, rfl⟩
  · cases h; exact Instr.continuesWith_word [] _ rfl rfl
  · split at h
    case h_2 | h_4 => exact decodeXy_continuesWith h
    case h_3 => exact decodeEd_continuesWith h
    case h_1 => cases h; exact Instr.continuesWith_word [] _ rfl rfl
    case h_5 => cases h; exact ⟨rfl, _, rfl⟩
  · cases h; exact aluImmediate_continuesWith y b1 _
  · cases h; exact ⟨(restartTarget_iff _).mpr ⟨⟨y, hy⟩, rfl⟩, _, rfl⟩

theorem decode_continuesWith {b0 b1 b2 b3 : Byte} {i : Instr} (h : decode b0 b1 b2 b3 = .ok i) :
    i.continuesWith [b1, b2, b3] := by
  unfold decode at h
  split at h
  · cases h; exact decodeX0_continuesWith _ _ b1 b2 b3
  · cases h; exact decodeX1_continuesWith _ _ _
  · cases h; exact aluOperand_continuesWith _ _ _
  · exact decodeX3_continuesWith (Nat.mod_lt _ (by decide)) h

/-- Settles O55: the first byte by `decode_beginsWith`, the others by `decode_continuesWith`. -/
theorem encodeOfDecodeIsTheBytes : Obligations.EncodeOfDecodeIsTheBytes := by
  intro b0 b1 b2 b3 i h
  obtain ⟨hw, rest, hrest⟩ := decode_continuesWith h
  obtain ⟨bs, hbs⟩ := List.head?_eq_some_iff.mp (decode_beginsWith h)
  rw [hbs, List.tail_cons] at hrest
  refine ⟨hw, ?_⟩
  rw [Instr.length, hbs, ← hrest]
  exact (List.take_left' (l₁ := b0 :: bs) rfl).symm

end Sys2Proof
end
section
/-! PROOF. The steps that run an instruction or idle (O38, O42), and what every step costs (O59). -/

namespace Sys2Proof.Machine

open Sys2Proof

/-! ### Steps that accept no interrupt -/

/-- Settles O38: such a step is `runInstruction`, and its effect runs on `State.ready`. -/
theorem stepRunsTheDecodedInstruction : Obligations.StepRunsTheDecodedInstruction := by
  intro s i hr hd
  have hdec : s.decoded = .ok i := hd
  rw [step_of_runs hr, State.runInstruction, hdec, ← s.ready_eq]

/-- A machine that would run an instruction were it not halted accepts no interrupt. -/
theorem State.acceptance_of_runs_unhalted {s : State} (h : ({ s with halted := false } : State).runs) :
    s.acceptance = .none := by
  obtain ⟨_, _, hint⟩ := h
  rcases s.acceptance_cases with ⟨_, hx, hn⟩ | ⟨_, hx, _, hl, h1, he⟩ | ⟨ha, _⟩
  · exact absurd ((hint hx).1.symm.trans hn) Bool.false_ne_true
  · exact absurd ⟨hl, h1, he⟩ (hint hx).2
  · exact ha

/-- Settles O42: such a step is `haltedCycle`. -/
theorem haltedMachineIdles : Obligations.HaltedMachineIdles := by
  intro s hr hh
  have hf : s.fault = none := hr.1
  rw [← s.haltedCycle_eq, step, runStep, hf, State.acceptance_of_runs_unhalted hr, hh]
  rfl

/-! ### What a step costs -/

/-- 4 to 23 cycles without a fault, 0 with one (30_encoding.md R106, 60_exceptions.md R285). -/
def State.costBounded (t : State) : Prop :=
  (t.fault = none → 4 ≤ t.lastCycles ∧ t.lastCycles ≤ 23) ∧ (t.fault ≠ none → t.lastCycles = 0)

theorem State.costBounded_of_ok {t : State} (hf : t.fault = none) (hl : 4 ≤ t.lastCycles) (hu : t.lastCycles ≤ 23) :
    t.costBounded :=
  ⟨fun _ => ⟨hl, hu⟩, absurd hf⟩

theorem State.raiseUnimplemented_costBounded (s : State) (pc : Word) (bytes : List Byte) :
    (s.raiseUnimplemented pc bytes).costBounded :=
  ⟨(fun h => by cases h), fun _ => rfl⟩

/-- A maskable acceptance costs 13 cycles in modes 0 and 1 and 19 in mode 2 (60_exceptions.md R290, R291). -/
theorem State.acceptInt_costBounded {s : State} (hf : s.fault = none) : s.acceptInt.costBounded := by
  have henter (handler : Word) {cycles : Nat} (hl : 4 ≤ cycles) (hu : cycles ≤ 23) :
      (s.maskableBegun.enterHandler handler cycles).costBounded := State.costBounded_of_ok hf hl hu
  unfold State.acceptInt
  cases s.im with
  | mode0 =>
    cases isRst s.intData with
    | true => exact henter _ (by decide) (by decide)
    | false => exact s.maskableBegun.raiseUnimplemented_costBounded _ _
  | mode1 => exact henter _ (by decide) (by decide)
  | mode2 => exact henter _ (by decide) (by decide)

/-- Settles O59: each of the five ways `step_cases` names is within the bounds. -/
theorem stepCostsAreBounded : Obligations.StepCostsAreBounded := by
  intro s t h
  obtain ⟨hf, ⟨_, _, rfl⟩ | ⟨_, rfl⟩ | ⟨_, rfl⟩ | ⟨_, _, _, rfl⟩ | ⟨_, i, _, _, hk⟩⟩ := step_cases h
  · exact State.costBounded_of_ok hf (by show 4 ≤ 11; decide) (by show 11 ≤ 23; decide)
  · exact State.acceptInt_costBounded hf
  · rw [s.haltedCycle_eq]
    exact State.costBounded_of_ok hf (by show 4 ≤ 4; decide) (by show 4 ≤ 23; decide)
  · exact State.raiseUnimplemented_costBounded _ _ _
  · rw [s.ready_eq] at hk
    obtain ⟨⟨kf, _⟩, _, hl, hu, _⟩ := hk
    exact State.costBounded_of_ok (kf.trans hf) hl hu

end Sys2Proof.Machine
end
section
/-! PROOF. The 8-bit loads (O1), the 8-bit stores (O2), and the loads of A, I and R (O3). -/

namespace Sys2Proof.Machine

open Sys2Proof

/-! ### Loads into a register (40_load8.md R110-R112, R115-R117, R121) -/

theorem State.setReg8_a (s : State) (v : Byte) : s.setReg8 .a v = s.setA v := rfl

theorem completes_loadsReg {i : Instr} {s : State} {r : Reg8} {v : Byte} {len : Word} {n : Nat}
    (h : exec i s = .next ((s.setReg8 r v).advance len n)) : Completes i s (LoadsReg s r v len n) :=
  ⟨_, h, s.setReg8_loads r v len n⟩

theorem completes_loadsA {i : Instr} {s : State} {v : Byte} {len : Word} {n : Nat}
    (h : exec i s = .next ((s.setA v).advance len n)) : Completes i s (LoadsReg s .a v len n) :=
  completes_loadsReg (by rw [h, State.setReg8_a])

/-- Settles O1: each form is `setReg8` or `setA` and the end of the instruction, so `State.setReg8_loads`
gives the whole effect. -/
theorem byteLoadsSetOneRegister : Obligations.ByteLoadsSetOneRegister := by
  intro s
  exact ⟨fun _ _ => completes_loadsReg rfl, fun _ _ => completes_loadsReg rfl, fun _ => completes_loadsReg rfl,
    fun _ _ _ => completes_loadsReg rfl, completes_loadsA rfl, completes_loadsA rfl, fun _ => completes_loadsA rfl⟩

/-! ### Stores of a byte (40_load8.md R113, R114, R118-R120, R122, R123) -/

theorem completes_onlyStores {i : Instr} {s : State} {a : Word} {v : Byte} {len : Word} {n : Nat}
    (h : exec i s = .next ((s.memWrite a v).advance len n)) : Completes i s (OnlyStores s [(a, v)] len n) :=
  ⟨_, h, s.memWrite_onlyStores a v len n⟩

/-- Settles O2: each form is one `memWrite` and the end of the instruction, so `State.memWrite_onlyStores`
gives the whole effect. -/
theorem byteStoresWriteOneByte : Obligations.ByteStoresWriteOneByte := by
  intro s
  exact ⟨fun _ => completes_onlyStores rfl, fun _ => completes_onlyStores rfl, completes_onlyStores rfl,
    completes_onlyStores rfl, fun _ => completes_onlyStores rfl, fun _ _ _ => completes_onlyStores rfl,
    fun _ _ _ => completes_onlyStores rfl⟩

/-! ### The loads of A, I and R (40_load8.md R124-R128) -/

/-- The flags of R124. The C that `loadSpecial` hands on is the one before A was loaded. -/
theorem State.loadSpecial_flags (s : State) (v : Byte) :
    FlagsAre (s.loadSpecial v) (v.getLsbD 7) (v == 0#8) false s.iff2 false s.main.f.c :=
  (s.setA v).writeFlags_advance_flags (s.main.f.special v s.iff2) 2#16 9

theorem State.loadSpecial_writesA (s : State) (v : Byte) : WritesA s v 2#16 9 (s.loadSpecial v) :=
  s.setA_writesA v (s.main.f.special v s.iff2) 2#16 9

/-- I and R take these bytes. LD I,A and LD R,A each give one of the two its old value. -/
def State.setIR (s : State) (i r : Byte) : State := { s with regI := i, regR := r }

theorem exec_ldIA_eq_setIR (s : State) : exec .ldIA s = .next ((s.setIR s.main.a s.regR).advance 2#16 9) := rfl

theorem exec_ldRA_eq_setIR (s : State) : exec .ldRA s = .next ((s.setIR s.regI s.main.a).advance 2#16 9) := rfl

/-- The frame of LD I,A and LD R,A (R127, R128): everything but I, R, PC and the cycle count. -/
theorem State.setIR_advance_keeps {s t : State} {i r : Byte} {len : Word} {n : Nat}
    (h : (s.setIR i r).advance len n = t) :
    KeepsReg8 [] s t ∧ KeepsFlags s t ∧ KeepsSp s t ∧ KeepsIndex s t ∧ KeepsAlternate s t ∧ KeepsControl s t ∧
      KeepsIo s t ∧ KeepsHost s t ∧ KeepsMemory s t ∧ EndsAt t (s.pc + len) n := by
  subst h
  exact ⟨KeepsReg8.rfl_of _ _ rfl, ⟨rfl, rfl⟩, rfl, ⟨rfl, rfl⟩, rfl, ⟨rfl, rfl, rfl, rfl, rfl⟩, ⟨rfl, rfl⟩,
    ⟨rfl, rfl, rfl, rfl, rfl, rfl, rfl, rfl⟩, keepsMemory_of _ _ rfl rfl, ⟨rfl, rfl⟩⟩

/-- Settles O3: LD A,I and LD A,R are `loadSpecial`, LD I,A and LD R,A are `setIR`. -/
theorem specialRegisterLoads : Obligations.SpecialRegisterLoads := by
  intro s
  refine ⟨?ldAI, ?ldAR, ?ldIA, ?ldRA⟩
  case ldAI => exact ⟨_, rfl, s.loadSpecial_writesA s.regI, s.loadSpecial_flags s.regI⟩
  case ldAR => exact ⟨_, rfl, s.loadSpecial_writesA s.regR, s.loadSpecial_flags s.regR⟩
  case ldIA => exact ⟨_, exec_ldIA_eq_setIR s, rfl, rfl, State.setIR_advance_keeps rfl⟩
  case ldRA => exact ⟨_, exec_ldRA_eq_setIR s, rfl, rfl, State.setIR_advance_keeps rfl⟩

end Sys2Proof.Machine
end
section
/-! PROOF. The 16-bit loads and stores (O4, O5), PUSH and POP (O6-O8), and the exchanges (O9, O10). -/

namespace Sys2Proof.Machine

open Sys2Proof

/-! ### 16-bit loads and stores (41_load16_exchange_block.md R129-R138) -/

theorem completes_loadsPair {i : Instr} {s : State} {dd : Pair} {w len : Word} {n : Nat}
    (h : exec i s = .next ((s.setPair dd w).advance len n)) : Completes i s (LoadsPair s dd w len n) :=
  ⟨_, h, s.setPair_loads dd w len n⟩

theorem completes_loadsIdx {i : Instr} {s : State} {xy : IdxReg} {w len : Word} {n : Nat}
    (h : exec i s = .next ((s.setIdx xy w).advance len n)) : Completes i s (LoadsIdx s xy w len n) :=
  ⟨_, h, s.setIdx_loads xy w len n⟩

theorem completes_storesWord {i : Instr} {s : State} {a w len : Word} {n : Nat}
    (h : exec i s = .next ((s.memWrite16 a w).advance len n)) : Completes i s (OnlyStores s (wordAt a w) len n) :=
  ⟨_, h, s.memWrite16_onlyStores a w len n⟩

/-- Settles O4: each form is `setPair` (HL and SP are pairs) or `setIdx` and the end of the instruction, so
`State.setPair_loads` and `State.setIdx_loads` give the whole effect. -/
theorem wordLoadsSetOneRegister : Obligations.WordLoadsSetOneRegister := by
  intro s
  exact ⟨fun _ _ => completes_loadsPair rfl, fun _ _ => completes_loadsIdx rfl,
    fun _ => completes_loadsPair (dd := .hl) rfl, fun _ _ => completes_loadsPair rfl,
    fun _ _ => completes_loadsIdx rfl, completes_loadsPair (dd := .sp) rfl,
    fun _ => completes_loadsPair (dd := .sp) rfl⟩

/-- Settles O5: each form is one `memWrite16` and the end of the instruction, so `State.memWrite16_onlyStores`
gives the whole effect. -/
theorem wordStoresWriteTwoBytes : Obligations.WordStoresWriteTwoBytes := by
  intro s
  exact ⟨fun _ => completes_storesWord rfl, fun _ _ => completes_storesWord rfl, fun _ _ => completes_storesWord rfl⟩

/-! ### PUSH and POP (41_load16_exchange_block.md R139-R142) -/

/-- Settles O6: both forms are `push16` and the end of the instruction, which is `State.push16_pushes`. -/
theorem pushesStoreAWord : Obligations.PushesStoreAWord := by
  intro s
  exact ⟨fun qq => ⟨_, rfl, s.push16_pushes (s.stackPair qq) _ _⟩, fun xy => ⟨_, rfl, s.push16_pushes (s.idx xy) _ _⟩⟩

theorem State.dropTop_setStackPair_keepsRest (s : State) (qq : StackPair) (w len : Word) (n : Nat) :
    KeepsRest s ((s.dropTop.setStackPair qq w).advance len n) :=
  (s.dropTop_keepsRest.trans (State.setStackPair_keepsRest _ qq w)).trans (State.advance_keepsRest _ len n)

/-- Settles O7: POP qq writes the pair with `setStackPair`; POP xy is a load of xy in the machine whose SP has
already risen. -/
theorem popsLoadAWord : Obligations.PopsLoadAWord := by
  intro s
  constructor
  · intro qq
    exact ⟨_, rfl, State.setStackPair_stackPair_same _ qq _,
      fun rr h => State.setStackPair_stackPair_other _ qq rr _ h, by simp, by simp, ⟨by simp, by simp⟩,
      s.dropTop_setStackPair_keepsRest qq _ _ _, keepsMemory_of _ _ (by simp) (by simp), by simp [EndsAt]⟩
  · intro xy
    obtain ⟨hw, hother, hreg, hflags, hsp, hrest, hmem, hend⟩ := s.dropTop.setIdx_loads xy s.stackTop 2#16 14
    exact ⟨_, rfl, hw, hother, hsp, hreg, hflags, s.dropTop_keepsRest.trans hrest, hmem, hend⟩

/-- Where both bytes can be stored, the word just pushed is the one a pop returns. -/
theorem State.push16_stackTop (s : State) (w : Word) (hhi : s.storable (s.sp - 1#16) = true)
    (hlo : s.storable (s.sp - 2#16) = true) : (s.push16 w).stackTop = w := by
  obtain ⟨_, _, hread⟩ := s.push16_stored w
  have h1 : (s.push16 w).memRead (s.sp - 1#16) = hi8 w := hread (s.sp - 1#16, hi8 w) (by simp [pushedFrom]) hhi
  have h2 : (s.push16 w).memRead (s.sp - 2#16) = lo8 w := hread (s.sp - 2#16, lo8 w) (by simp [pushedFrom]) hlo
  rw [State.stackTop, s.push16_sp, sub_two_add_one, h1, h2, pack_hi8_lo8]

/-- Settles O8: the pop loads rr with the top of the stack, which is the word pushed. -/
theorem pushThenPopMovesThePair : Obligations.PushThenPopMovesThePair := by
  intro s qq rr hhi hlo
  refine ⟨_, _, rfl, rfl, ?_, ?_⟩
  · exact (State.setStackPair_stackPair_same _ rr _).trans (s.push16_stackTop (s.stackPair qq) hhi hlo)
  · simp [s.push16_sp]

/-! ### The exchanges of registers (41_load16_exchange_block.md R143-R145) -/

theorem KeepsReg8.trans {s t u : State} {p q : List Reg8} (h : KeepsReg8 p s t) (k : KeepsReg8 q t u) :
    KeepsReg8 (p ++ q) s u := by
  intro r hr
  rw [List.mem_append, not_or] at hr
  exact (k r hr.2).trans (h r hr.1)

theorem State.setDe_keepsReg8 (s : State) (w : Word) : KeepsReg8 [.d, .e] s (s.setDe w) := by
  intro r hr
  cases r with
  | d | e => simp at hr
  | _ => rfl

theorem State.setHl_keepsReg8 (s : State) (w : Word) : KeepsReg8 [.h, .l] s (s.setHl w) := by
  intro r hr
  cases r with
  | h | l => simp at hr
  | _ => rfl

theorem State.advance_keepsReg8 (s : State) (len : Word) (n : Nat) : KeepsReg8 [] s (s.advance len n) :=
  KeepsReg8.rfl_of _ _ rfl

/-- Both sets of the general registers become these. EX AF,AF' and EXX do no more. -/
def State.setRegSets (s : State) (main alt : RegSet) : State := { s with main := main, alt := alt }

theorem exec_exAfAf_eq_setRegSets (s : State) :
    exec .exAfAf s = .next ((s.setRegSets { s.main with a := s.alt.a, f := s.alt.f }
      { s.alt with a := s.main.a, f := s.main.f }).advance 1#16 4) := rfl

theorem exec_exx_eq_setRegSets (s : State) :
    exec .exx s = .next ((s.setRegSets { s.alt with a := s.main.a, f := s.main.f }
      { s.main with a := s.alt.a, f := s.alt.f }).advance 1#16 4) := rfl

/-- The frame of EX AF,AF' and EXX: everything but the two sets, PC and the cycle count. -/
theorem State.setRegSets_advance_keeps {s t : State} {main alt : RegSet} {len : Word} {n : Nat}
    (h : (s.setRegSets main alt).advance len n = t) :
    KeepsSp s t ∧ KeepsIndex s t ∧ KeepsIR s t ∧ KeepsControl s t ∧ KeepsIo s t ∧ KeepsHost s t ∧
      KeepsMemory s t ∧ EndsAt t (s.pc + len) n := by
  subst h
  exact ⟨rfl, ⟨rfl, rfl⟩, ⟨rfl, rfl⟩, ⟨rfl, rfl, rfl, rfl, rfl⟩, ⟨rfl, rfl⟩,
    ⟨rfl, rfl, rfl, rfl, rfl, rfl, rfl, rfl⟩, keepsMemory_of _ _ rfl rfl, ⟨rfl, rfl⟩⟩

/-- Settles O9: EX DE,HL is `setDe` and `setHl` with the old values, EX AF,AF' and EXX are `setRegSets`. -/
theorem exchangesSwap : Obligations.ExchangesSwap := by
  intro s
  refine ⟨?exDeHl, ?exAfAf, ?exx⟩
  case exDeHl =>
    have hreg := ((s.setDe_keepsReg8 s.hl).trans (State.setHl_keepsReg8 _ s.de)).trans
      (State.advance_keepsReg8 _ 1#16 4)
    have hrest := ((s.setPair_keepsRest .de s.hl).trans (State.setPair_keepsRest _ .hl s.de)).trans
      (State.advance_keepsRest _ 1#16 4)
    exact ⟨_, rfl, by simp, by simp, hreg, ⟨rfl, rfl⟩, ⟨rfl, ⟨rfl, rfl⟩, hrest⟩, keepsMemory_of _ _ rfl rfl,
      ⟨rfl, rfl⟩⟩
  case exAfAf =>
    refine ⟨_, exec_exAfAf_eq_setRegSets s, rfl, rfl, rfl, rfl, rfl, fun r hr => ?_, rfl, rfl, rfl,
      State.setRegSets_advance_keeps rfl⟩
    cases r with
    | a => simp at hr
    | _ => rfl
  case exx =>
    exact ⟨_, exec_exx_eq_setRegSets s, rfl, rfl, rfl, rfl, rfl, rfl, rfl, rfl, rfl, ⟨rfl, rfl⟩,
      State.setRegSets_advance_keeps rfl⟩

/-! ### The exchanges with the top of the stack (41_load16_exchange_block.md R146, R147) -/

/-- The two stores, the high byte first. -/
theorem State.swapTop_stored (s : State) (w : Word) :
    Stored [(s.sp + 1#16, hi8 w), (s.sp, lo8 w)] s (s.swapTop w) :=
  s.pair_stored (s.sp + 1#16) s.sp (hi8 w) (lo8 w) (.inr rfl)

theorem State.swapTop_keepsRest (s : State) (w : Word) : KeepsRest s (s.swapTop w) :=
  (s.memWrite_keepsRest _ _).trans (State.memWrite_keepsRest _ _ _)

/-- Settles O10: the effect is that of a load of the register with the old top of the stack, in the machine
after `swapTop`, which stores the two bytes and changes no register. -/
theorem stackExchangesSwap : Obligations.StackExchangesSwap := by
  intro s
  constructor
  · have hreg := (State.setHl_keepsReg8 (s.swapTop s.hl) s.stackTop).trans (State.advance_keepsReg8 _ 1#16 19)
    obtain ⟨hw, _, _, hflags, hindex, hrest, _, hend⟩ := (s.swapTop s.hl).setPair_loads .hl s.stackTop 1#16 19
    exact ⟨_, rfl, Stored.congr _ _ _ _ (s.swapTop_stored s.hl) rfl rfl, hw, hreg, hflags,
      ⟨rfl, hindex, (s.swapTop_keepsRest s.hl).trans hrest⟩, hend⟩
  · intro xy
    obtain ⟨hw, hother, hreg, hflags, hsp, hrest, _, hend⟩ :=
      (s.swapTop (s.idx xy)).setIdx_loads xy s.stackTop 2#16 23
    exact ⟨_, rfl, Stored.congr _ _ _ _ (s.swapTop_stored (s.idx xy)) (by simp) (by simp), hw, hother, hreg, hflags,
      hsp, (s.swapTop_keepsRest (s.idx xy)).trans hrest, hend⟩

end Sys2Proof.Machine
end
section
/-! PROOF. Block copy and block search, one iteration a step (O11, O12). -/

namespace Sys2Proof.Machine

open Sys2Proof

/-! ### The end of an iteration (30_encoding.md R105) -/

/-- The iteration's effect wherever it ends gives both of its ends: at PC, or 2 bytes on. -/
theorem State.endIteration_repeats {effect : Word → Nat → State → Prop} {s t : State} (again : Bool)
    (hpc : t.pc = s.pc) (h : ∀ pc n, effect pc n (t.goto pc n)) : Repeats again s effect (t.endIteration again) := by
  rw [Repeats, ← hpc]
  cases again with
  | true => exact h t.pc 21
  | false => exact h (t.pc + 2#16) 16

theorem sub_beq_zero {k : Nat} (x y : BitVec k) : (x - y == 0#k) = decide (x = y) := by
  rw [Bool.eq_iff_iff, beq_iff_eq, decide_eq_true_iff]
  exact sub_eq_zero

theorem sub_bne_zero {k : Nat} (x y : BitVec k) : (x - y != 0#k) = decide (x ≠ y) := by
  rw [bne, sub_beq_zero, decide_not]

/-! ### Block copy (41_load16_exchange_block.md R148-R151) -/

theorem State.copyByte_keepsRest (s : State) (step : Word) : KeepsRest s (s.copyByte step) :=
  ((((s.memWrite_keepsRest s.de (s.memRead s.hl)).trans (State.setPair_keepsRest _ .hl _)).trans
    (State.setPair_keepsRest _ .de _)).trans (State.setPair_keepsRest _ .bc _)).trans
    (State.writeFlags_keepsRest _ (s.main.f.blockLoad (s.bc - 1#16)))

theorem FlagReg.blockLoad_pv (f : FlagReg) (bc : Word) : (f.blockLoad (bc - 1#16)).pv = decide (bc ≠ 1#16) :=
  sub_bne_zero bc 1#16

/-- Both pointers move, and BC counts down. -/
theorem State.copyByte_pairs (s : State) (step : Word) :
    (s.copyByte step).hl = s.hl + step ∧ (s.copyByte step).de = s.de + step ∧
      (s.copyByte step).bc = s.bc - 1#16 := by
  simp [State.copyByte]

theorem State.copyByte_flags (s : State) (step : Word) :
    FlagsAre (s.copyByte step) s.main.f.s s.main.f.z false (decide (s.bc ≠ 1#16)) false s.main.f.c := by
  rw [← s.main.f.blockLoad_pv s.bc]
  exact State.writeFlags_flags _ (s.main.f.blockLoad (s.bc - 1#16))

/-- One iteration, whatever its direction and wherever it ends. -/
theorem State.copyByte_copies (s : State) (dir pc : Word) (n : Nat) :
    CopiesByte s dir pc n ((s.copyByte dir).goto pc n) :=
  let ⟨hhl, hde, hbc⟩ := s.copyByte_pairs dir
  ⟨Stored.congr _ _ _ _ (s.memWrite_stored s.de (s.memRead s.hl)) rfl rfl, hhl, hde, hbc, rfl, s.copyByte_flags dir,
    ⟨rfl, ⟨rfl, rfl⟩, (s.copyByte_keepsRest dir).trans (State.goto_keepsRest _ pc n)⟩, ⟨rfl, rfl⟩⟩

/-- An iteration that does not repeat ends as every instruction does. -/
theorem State.copyByte_advance_copies (s : State) (dir len : Word) (n : Nat) :
    CopiesByte s dir (s.pc + len) n ((s.copyByte dir).advance len n) := s.copyByte_copies dir (s.pc + len) n

theorem State.copyByte_repeats (s : State) (dir : Word) :
    Repeats (decide (s.bc ≠ 1#16)) s (CopiesByte s dir) ((s.copyByte dir).endIteration s.copiesOn) := by
  rw [State.copiesOn, sub_bne_zero]
  exact State.endIteration_repeats _ rfl (s.copyByte_copies dir)

/-- Settles O11: LDI and LDD are one iteration, LDIR and LDDR the same iteration ended by `copiesOn`. -/
theorem blockCopiesMoveOneByte : Obligations.BlockCopiesMoveOneByte := by
  intro s
  exact ⟨⟨_, rfl, s.copyByte_advance_copies _ _ _⟩, ⟨_, rfl, s.copyByte_repeats _⟩,
    ⟨_, rfl, s.copyByte_advance_copies _ _ _⟩, ⟨_, rfl, s.copyByte_repeats _⟩⟩

/-! ### Block search (41_load16_exchange_block.md R152-R155) -/

theorem State.compareByte_keepsRest (s : State) (step : Word) : KeepsRest s (s.compareByte step) :=
  ((s.setPair_keepsRest .hl _).trans (State.setPair_keepsRest _ .bc _)).trans
    (State.writeFlags_keepsRest _ (s.main.f.blockCompare s.main.a (s.memRead s.hl) (s.bc - 1#16)))

/-- The difference of two bytes as a number modulo 256. -/
theorem sub_toNat_emod (a v : Byte) : ((a - v).toNat : Int) = ((a.toNat : Int) - v.toNat) % 256 := by
  have ha := a.isLt
  have hv := v.isLt
  rw [BitVec.toNat_sub]
  omega

/-- HL moves, and BC counts down. -/
theorem State.compareByte_pairs (s : State) (step : Word) :
    (s.compareByte step).hl = s.hl + step ∧ (s.compareByte step).bc = s.bc - 1#16 := by
  simp [State.compareByte]

/-- S, Z and H as of A - (HL), and PV from the new BC. -/
theorem State.compareByte_flags (s : State) (step : Word) :
    FlagsAre (s.compareByte step) ((s.main.a - s.memRead s.hl).getLsbD 7) (decide (s.main.a = s.memRead s.hl))
      (decide (s.main.a.toNat % 16 < (s.memRead s.hl).toNat % 16)) (decide (s.bc ≠ 1#16)) true s.main.f.c := by
  rw [← sub_beq_zero, ← sub_bne_zero]
  exact State.writeFlags_flags _ (s.main.f.blockCompare s.main.a (s.memRead s.hl) (s.bc - 1#16))

/-- One iteration, whatever its direction and wherever it ends. -/
theorem State.compareByte_searches (s : State) (dir pc : Word) (n : Nat) :
    SearchesByte s dir pc n ((s.compareByte dir).goto pc n) :=
  let ⟨hhl, hbc⟩ := s.compareByte_pairs dir
  ⟨hhl, hbc, rfl, rfl, ⟨s.main.a - s.memRead s.hl, sub_toNat_emod _ _, s.compareByte_flags dir⟩,
    ⟨rfl, ⟨rfl, rfl⟩, (s.compareByte_keepsRest dir).trans (State.goto_keepsRest _ pc n)⟩, keepsMemory_of _ _ rfl rfl,
    ⟨rfl, rfl⟩⟩

/-- The search goes on while the new BC is not 0 and the bytes differ. -/
theorem State.searchesOn_eq (s : State) :
    s.searchesOn = decide (s.bc ≠ 1#16 ∧ s.main.a ≠ s.memRead s.hl) := by
  rw [State.searchesOn, sub_bne_zero, sub_bne_zero, Bool.decide_and]

/-- An iteration that does not repeat ends as every instruction does. -/
theorem State.compareByte_advance_searches (s : State) (dir len : Word) (n : Nat) :
    SearchesByte s dir (s.pc + len) n ((s.compareByte dir).advance len n) := s.compareByte_searches dir (s.pc + len) n

theorem State.compareByte_repeats (s : State) (dir : Word) :
    Repeats (decide (s.bc ≠ 1#16 ∧ s.main.a ≠ s.memRead s.hl)) s (SearchesByte s dir)
      ((s.compareByte dir).endIteration s.searchesOn) := by
  rw [s.searchesOn_eq]
  exact State.endIteration_repeats _ rfl (s.compareByte_searches dir)

/-- Settles O12: CPI and CPD are one iteration, CPIR and CPDR the same iteration ended by `searchesOn`. -/
theorem blockSearchesCompareOneByte : Obligations.BlockSearchesCompareOneByte := by
  intro s
  exact ⟨⟨_, rfl, s.compareByte_advance_searches _ _ _⟩, ⟨_, rfl, s.compareByte_repeats _⟩,
    ⟨_, rfl, s.compareByte_advance_searches _ _ _⟩, ⟨_, rfl, s.compareByte_repeats _⟩⟩

end Sys2Proof.Machine
end
section
/-! SUPPORT. Bits and halves of a byte as numbers, and a completed instruction with a weaker effect. -/

namespace Sys2Proof.Machine

open Sys2Proof

theorem Completes.imp {i : Instr} {s : State} {p q : State → Prop} (h : Completes i s p) (hpq : ∀ t, p t → q t) :
    Completes i s q :=
  let ⟨t, ht, hp⟩ := h
  ⟨t, ht, hpq t hp⟩

theorem getLsbD_seven (v : Byte) : v.getLsbD 7 = decide (0x80 ≤ v.toNat) :=
  BitVec.msb_eq_decide v

theorem beq_eq_decide_toNat (v w : Byte) : (v == w) = decide (v.toNat = w.toNat) := by
  rw [Bool.eq_iff_iff, beq_iff_eq, decide_eq_true_iff, BitVec.toNat_inj]

theorem lowNibble_toNat (v : Byte) : (v &&& 0x0F#8).toNat = v.toNat % 16 := by
  rw [BitVec.toNat_and]
  exact Nat.and_two_pow_sub_one_eq_mod v.toNat 4

/-- The value of a byte as a signed number. -/
theorem toInt_eq_ite (v : Byte) : v.toInt = if 0x80 ≤ v.toNat then (v.toNat : Int) - 256 else v.toNat := by
  rw [BitVec.toInt_eq_toNat_cond]
  split <;> split <;> omega

end Sys2Proof.Machine
end
section
/-! PROOF. The eight operations on A (O13-O16), and PV as signed overflow (O18): one lemma for each shared
operation, which every operand form cites. -/

namespace Sys2Proof.Machine

open Sys2Proof

/-! ### ADD and ADC (42_alu8_control.md R156, R163-R170) -/

theorem add8_toNat (a b : Byte) (cin : Bool) : (add8 a b cin).toNat = (a.toNat + b.toNat + cin.toNat) % 256 :=
  BitVec.toNat_ofNat _ 8

theorem FlagReg.add8_pv (f : FlagReg) (a b : Byte) (cin : Bool) :
    (f.add8 a b cin).pv =
      decide (a.getLsbD 7 = b.getLsbD 7 ∧ (Machine.add8 a b cin).getLsbD 7 ≠ a.getLsbD 7) := by
  rw [Bool.decide_and, decide_not]
  rfl

theorem State.aluAdd_adds (s : State) (v : Byte) (cin : Bool) (len : Word) (n : Nat) :
    AddsToA s v cin len n ((s.aluAdd v cin).advance len n) :=
  ⟨add8 s.main.a v cin, add8_toNat _ _ _, s.setA_writesA _ _ len n, rfl, rfl, rfl, s.main.f.add8_pv _ _ _, rfl, rfl⟩

theorem completes_adds {i : Instr} {s : State} {v : Byte} {cin : Bool} {len : Word} {n : Nat}
    (h : exec i s = .next ((s.aluAdd v cin).advance len n)) : Completes i s (AddsToA s v cin len n) :=
  ⟨_, h, s.aluAdd_adds v cin len n⟩

/-- Settles O13: each form is `aluAdd` of its operand and the end of the instruction. -/
theorem addsSetAAndFlags : Obligations.AddsSetAAndFlags := by
  intro s
  exact ⟨fun _ => completes_adds rfl, fun _ => completes_adds rfl, completes_adds rfl, fun _ _ => completes_adds rfl,
    fun _ => completes_adds rfl, fun _ => completes_adds rfl, completes_adds rfl, fun _ _ => completes_adds rfl⟩

/-! ### SUB and SBC (42_alu8_control.md R157, R171-R178) -/

theorem sub8_toNat (a b : Byte) (cin : Bool) :
    ((sub8 a b cin).toNat : Int) = ((a.toNat : Int) - b.toNat - cin.toNat) % 256 := by
  rw [sub8, BitVec.toNat_ofInt]
  omega

theorem FlagReg.sub8_pv (f : FlagReg) (a b : Byte) (cin : Bool) :
    (f.sub8 a b cin).pv =
      decide (a.getLsbD 7 ≠ b.getLsbD 7 ∧ (Machine.sub8 a b cin).getLsbD 7 ≠ a.getLsbD 7) := by
  rw [Bool.decide_and, decide_not, decide_not]
  rfl

theorem FlagReg.sub8_c (f : FlagReg) (a b : Byte) (cin : Bool) :
    (f.sub8 a b cin).c = decide (a.toNat < b.toNat + cin.toNat) :=
  decide_eq_decide.mpr (by omega)

/-- The flags of `sub8` stand after SUB, SBC, CP and NEG alike. -/
theorem State.writeFlags_sub8 (s : State) (f : FlagReg) (a b : Byte) (cin : Bool) (len : Word) (n : Nat) :
    SubFlags ((s.writeFlags (f.sub8 a b cin)).advance len n) a b cin (sub8 a b cin) :=
  ⟨rfl, rfl, rfl, f.sub8_pv a b cin, rfl, f.sub8_c a b cin⟩

theorem State.aluSub_subs (s : State) (v : Byte) (cin : Bool) (len : Word) (n : Nat) :
    SubsFromA s v cin len n ((s.aluSub v cin).advance len n) :=
  ⟨sub8 s.main.a v cin, sub8_toNat _ _ _, s.setA_writesA _ _ len n, State.writeFlags_sub8 _ _ _ _ _ len n⟩

theorem completes_subs {i : Instr} {s : State} {v : Byte} {cin : Bool} {len : Word} {n : Nat}
    (h : exec i s = .next ((s.aluSub v cin).advance len n)) : Completes i s (SubsFromA s v cin len n) :=
  ⟨_, h, s.aluSub_subs v cin len n⟩

/-- Settles O14: each form is `aluSub` of its operand and the end of the instruction. -/
theorem subtractsSetAAndFlags : Obligations.SubtractsSetAAndFlags := by
  intro s
  exact ⟨fun _ => completes_subs rfl, fun _ => completes_subs rfl, completes_subs rfl, fun _ _ => completes_subs rfl,
    fun _ => completes_subs rfl, fun _ => completes_subs rfl, completes_subs rfl, fun _ _ => completes_subs rfl⟩

/-! ### AND, XOR, OR (42_alu8_control.md R158, R179-R190) -/

theorem completes_logic {i : Instr} {s : State} {res : Byte} {h : Bool} {len : Word} {n : Nat}
    (he : exec i s = .next ((s.aluLogic res h).advance len n)) : Completes i s (LogicToA s res h len n) :=
  ⟨_, he, s.setA_writesA res _ len n, State.writeFlags_advance_flags _ (s.main.f.logic res h) len n⟩

/-- Settles O15: each form is `aluLogic` of its result and the end of the instruction. -/
theorem logicSetsAAndFlags : Obligations.LogicSetsAAndFlags := by
  intro s
  exact ⟨fun _ => completes_logic rfl, fun _ => completes_logic rfl, completes_logic rfl,
    fun _ _ => completes_logic rfl, fun _ => completes_logic rfl, fun _ => completes_logic rfl, completes_logic rfl,
    fun _ _ => completes_logic rfl, fun _ => completes_logic rfl, fun _ => completes_logic rfl, completes_logic rfl,
    fun _ _ => completes_logic rfl⟩

/-! ### CP (42_alu8_control.md R159, R191-R194) -/

theorem State.aluCp_compares (s : State) (v : Byte) (len : Word) (n : Nat) :
    ComparesA s v len n ((s.aluCp v).advance len n) :=
  ⟨sub8 s.main.a v false, by rw [sub8_toNat]; simp, s.writeFlags_writesA _ len n,
    State.writeFlags_sub8 _ _ _ _ _ len n⟩

theorem completes_compares {i : Instr} {s : State} {v : Byte} {len : Word} {n : Nat}
    (h : exec i s = .next ((s.aluCp v).advance len n)) : Completes i s (ComparesA s v len n) :=
  ⟨_, h, s.aluCp_compares v len n⟩

/-- Settles O16: each form is `aluCp` of its operand and the end of the instruction. -/
theorem comparesSetFlagsOnly : Obligations.ComparesSetFlagsOnly := by
  intro s
  exact ⟨fun _ => completes_compares rfl, fun _ => completes_compares rfl, completes_compares rfl,
    fun _ _ => completes_compares rfl⟩

/-! ### PV is signed overflow (42_alu8_control.md R156, R157) -/

/-- A sum overflows where the operands agree in sign and the result does not. -/
theorem sum_overflows_iff {a b res : Byte} {cin : Bool} (hres : res.toNat = (a.toNat + b.toNat + cin.toNat) % 256) :
    (a.getLsbD 7 = b.getLsbD 7 ∧ res.getLsbD 7 ≠ a.getLsbD 7) ↔
      ¬(-128 ≤ a.toInt + b.toInt + cin.toNat ∧ a.toInt + b.toInt + cin.toNat ≤ 127) := by
  have ha := a.isLt
  have hb := b.isLt
  have hc := cin.toNat_le
  simp only [getLsbD_seven, toInt_eq_ite, ne_eq, decide_eq_decide]
  split <;> split <;> omega

/-- A difference overflows where the operands differ in sign and the result has the sign of the subtrahend. -/
theorem difference_overflows_iff {a b res : Byte} {cin : Bool}
    (hres : (res.toNat : Int) = ((a.toNat : Int) - b.toNat - cin.toNat) % 256) :
    (a.getLsbD 7 ≠ b.getLsbD 7 ∧ res.getLsbD 7 ≠ a.getLsbD 7) ↔
      ¬(-128 ≤ a.toInt - b.toInt - cin.toNat ∧ a.toInt - b.toInt - cin.toNat ≤ 127) := by
  have ha := a.isLt
  have hb := b.isLt
  have hc := cin.toNat_le
  simp only [getLsbD_seven, toInt_eq_ite, ne_eq, decide_eq_decide]
  split <;> split <;> omega

theorem AddsToA.pv_eq {s t : State} {v : Byte} {cin : Bool} {len : Word} {n : Nat} (h : AddsToA s v cin len n t) :
    t.main.f.pv = !decide (-128 ≤ s.main.a.toInt + v.toInt + cin.toNat ∧
      s.main.a.toInt + v.toInt + cin.toNat ≤ 127) := by
  obtain ⟨res, hres, _, _, _, _, hpv, _⟩ := h
  rw [hpv, ← decide_not]
  exact decide_eq_decide.mpr (sum_overflows_iff hres)

theorem SubsFromA.pv_eq {s t : State} {v : Byte} {cin : Bool} {len : Word} {n : Nat}
    (h : SubsFromA s v cin len n t) :
    t.main.f.pv = !decide (-128 ≤ s.main.a.toInt - v.toInt - cin.toNat ∧
      s.main.a.toInt - v.toInt - cin.toNat ≤ 127) := by
  obtain ⟨res, hres, _, _, _, _, hpv, _⟩ := h
  rw [hpv, ← decide_not]
  exact decide_eq_decide.mpr (difference_overflows_iff hres)

/-- Settles O18: `sum_overflows_iff` and `difference_overflows_iff` on the PV that O13 and O14 give. -/
theorem overflowFlagIsSignedOverflow : Obligations.OverflowFlagIsSignedOverflow := by
  intro s n
  refine ⟨(completes_adds rfl).imp fun t h => ?_, (completes_adds rfl).imp fun _ => AddsToA.pv_eq,
    (completes_subs rfl).imp fun t h => ?_, (completes_subs rfl).imp fun _ => SubsFromA.pv_eq⟩
  · simpa using h.pv_eq
  · simpa using h.pv_eq

end Sys2Proof.Machine
end
section
/-! PROOF. INC and DEC of a byte (O17). -/

namespace Sys2Proof.Machine

open Sys2Proof

/-! ### The flags of inc8 and dec8 as numbers (42_alu8_control.md R160, R161) -/

theorem add_one_toNat (v : Byte) : (v + 1#8).toNat = (v.toNat + 1) % 256 := BitVec.toNat_add v 1#8

theorem sub_one_toNat (v : Byte) : (v - 1#8).toNat = (v.toNat + 255) % 256 := by
  rw [BitVec.toNat_sub, Nat.add_comm]
  rfl

theorem State.writeFlags_inc8 (s t : State) (v : Byte) (len : Word) (n : Nat) :
    IncFlags s v ((t.writeFlags (s.main.f.inc8 v)).advance len n) := by
  have hv := v.isLt
  refine ⟨?s, ?z, ?h, ?pv, rfl, rfl⟩
  case s => exact (getLsbD_seven _).trans (by rw [add_one_toNat])
  case z =>
    refine (beq_eq_decide_toNat _ _).trans (decide_eq_decide.mpr ?_)
    rw [add_one_toNat, BitVec.toNat_ofNat]
    omega
  case h => exact (beq_eq_decide_toNat _ _).trans (by rw [lowNibble_toNat]; rfl)
  case pv => exact beq_eq_decide_toNat v 0x7F#8

theorem State.writeFlags_dec8 (s t : State) (v : Byte) (len : Word) (n : Nat) :
    DecFlags s v ((t.writeFlags (s.main.f.dec8 v)).advance len n) := by
  have hv := v.isLt
  refine ⟨?s, ?z, ?h, ?pv, rfl, rfl⟩
  case s => exact (getLsbD_seven _).trans (by rw [sub_one_toNat])
  case z =>
    refine (beq_eq_decide_toNat _ _).trans (decide_eq_decide.mpr ?_)
    rw [sub_one_toNat, BitVec.toNat_ofNat]
    omega
  case h => exact (beq_eq_decide_toNat _ _).trans (by rw [lowNibble_toNat]; rfl)
  case pv => exact beq_eq_decide_toNat v 0x80#8

/-! ### The operand forms (42_alu8_control.md R195-R200) -/

theorem State.incByte_effect (s : State) (a : Word) (len : Word) (n : Nat) :
    WritesByte s a (s.memRead a + 1#8) len n ((s.incByte a).advance len n) ∧
      IncFlags s (s.memRead a) ((s.incByte a).advance len n) :=
  ⟨s.memWrite_writesByte a _ _ len n, s.writeFlags_inc8 _ _ len n⟩

theorem State.decByte_effect (s : State) (a : Word) (len : Word) (n : Nat) :
    WritesByte s a (s.memRead a - 1#8) len n ((s.decByte a).advance len n) ∧
      DecFlags s (s.memRead a) ((s.decByte a).advance len n) :=
  ⟨s.memWrite_writesByte a _ _ len n, s.writeFlags_dec8 _ _ len n⟩

/-- Settles O17: the register forms are `setReg8` and the flags, the memory forms `incByte` and `decByte`. -/
theorem incAndDecChangeTheOperand : Obligations.IncAndDecChangeTheOperand := by
  intro s
  exact ⟨fun r => ⟨_, rfl, s.setReg8_writesReg r _ _ _ _, s.writeFlags_inc8 _ _ _ _⟩,
    ⟨_, rfl, s.incByte_effect _ _ _⟩, fun _ _ => ⟨_, rfl, s.incByte_effect _ _ _⟩,
    fun r => ⟨_, rfl, s.setReg8_writesReg r _ _ _ _, s.writeFlags_dec8 _ _ _ _⟩,
    ⟨_, rfl, s.decByte_effect _ _ _⟩, fun _ _ => ⟨_, rfl, s.decByte_effect _ _ _⟩⟩

end Sys2Proof.Machine
end
section
/-! PROOF. DAA (O19) and decimal addition (O20). -/

namespace Sys2Proof.Machine

open Sys2Proof

/-! ### The correction (42_alu8_control.md R201) -/

/-- 0x06 and 0x60 have no bit in common, so their `or` is their sum. -/
theorem State.daaDiff_toNat (s : State) : (daaDiff s.main.f s.main.a).toNat = s.daaCorrection := by
  simp only [daaDiff, State.daaCorrection, Bool.or_eq_true, decide_eq_true_eq]
  split <;> split <;> rfl

theorem State.daa_toNat (s : State) : ((daa s.main.f s.main.a).toNat : Int) =
    (if s.main.f.n then (s.main.a.toNat : Int) - s.daaCorrection else s.main.a.toNat + s.daaCorrection) % 256 := by
  unfold daa
  split
  next => rw [sub_toNat_emod, s.daaDiff_toNat]
  next => rw [BitVec.toNat_add, s.daaDiff_toNat]; omega

/-- Settles O19: DAA is `daa` into A with its flags. -/
theorem daaAdjusts : Obligations.DaaAdjusts := by
  intro s
  exact ⟨_, rfl, daa s.main.f s.main.a, s.daa_toNat, s.setA_writesA _ _ _ _,
    State.writeFlags_advance_flags _ (s.main.f.daa s.main.a) _ _⟩

/-! ### Decimal addition -/

/-- After the binary sum of two two-digit numbers, the half carry or a low digit above 9 tells the decimal carry out
of the units. -/
theorem decimal_units_carry {x y sum : Nat} (hsum : sum = (x / 10 * 16 + x % 10 + (y / 10 * 16 + y % 10)) % 256) :
    (15 < x % 10 + y % 10 ∨ 9 < sum % 16) ↔ 10 ≤ x % 10 + y % 10 := by
  omega

/-- The carry or a sum above 0x99 tells the decimal carry out of the tens. -/
theorem decimal_tens_carry {x y sum : Nat} (hx : x < 100) (hy : y < 100)
    (hsum : sum = (x / 10 * 16 + x % 10 + (y / 10 * 16 + y % 10)) % 256) :
    (255 < x / 10 * 16 + x % 10 + (y / 10 * 16 + y % 10) ∨ 0x99 < sum) ↔ 100 ≤ x + y := by
  have hunwrapped : 0x99 < x / 10 * 16 + x % 10 + (y / 10 * 16 + y % 10) ↔ 100 ≤ x + y := by omega
  omega

/-- Correcting both digits that carried gives the digits of the decimal sum. -/
theorem decimal_corrected {x y : Nat} (hx : x < 100) (hy : y < 100) :
    ((x / 10 * 16 + x % 10 + (y / 10 * 16 + y % 10)) % 256 +
      ((if 10 ≤ x % 10 + y % 10 then 6 else 0) + (if 100 ≤ x + y then 0x60 else 0))) % 256 =
      (x + y) % 100 / 10 * 16 + (x + y) % 100 % 10 := by
  split <;> split <;> omega

/-- Settles O20: the flags ADD leaves are the ones DAA asks about. -/
theorem daaMakesDecimalAddition : Obligations.DaaMakesDecimalAddition := by
  intro s x y hx hy ha
  obtain ⟨t, ht, sum, hsum, ⟨hta, _⟩, _, _, hh, _, hn, hc⟩ :=
    completes_adds (i := .addAN (BitVec.ofNat 8 (y / 10 * 16 + y % 10))) (s := s) rfl
  obtain ⟨u, hu, res, hres, ⟨hua, _⟩, _, _, _, _, _, huc⟩ := daaAdjusts t
  have hv : (BitVec.ofNat 8 (y / 10 * 16 + y % 10)).toNat = y / 10 * 16 + y % 10 := by
    rw [BitVec.toNat_ofNat]; omega
  rw [ha, hv, Bool.toNat_false, Nat.add_zero] at hsum hc hh
  rw [show (x / 10 * 16 + x % 10) % 16 = x % 10 by omega, show (y / 10 * 16 + y % 10) % 16 = y % 10 by omega] at hh
  have hcorr : t.daaCorrection = (if 10 ≤ x % 10 + y % 10 then 6 else 0) + (if 100 ≤ x + y then 0x60 else 0) := by
    simp only [State.daaCorrection, hh, hc, hta, decide_eq_true_eq, decimal_units_carry hsum,
      decimal_tens_carry hx hy hsum]
  refine ⟨t, u, ht, hu, ?digits, ?hundred⟩
  case digits =>
    rw [hn, if_neg Bool.false_ne_true, hta, hcorr, hsum] at hres
    rw [hua, ← decimal_corrected hx hy]
    exact_mod_cast hres
  case hundred =>
    rw [huc, hc, hta, ← Bool.decide_or]
    exact decide_eq_decide.mpr (decimal_tens_carry hx hy hsum)

end Sys2Proof.Machine
end
section
/-! PROOF. The operations on A and C (O21) and CPU control (O22). -/

namespace Sys2Proof.Machine

open Sys2Proof

/-! ### CPL, NEG, CCF, SCF (42_alu8_control.md R202-R205) -/

/-- NEG overflows for -128 only. -/
theorem negation_overflows_iff {a res : Byte} (hres : (res.toNat : Int) = (-(a.toNat : Int)) % 256) :
    ((0#8 : Byte).getLsbD 7 ≠ a.getLsbD 7 ∧ res.getLsbD 7 ≠ (0#8 : Byte).getLsbD 7) ↔ a = 0x80#8 := by
  have ha := a.isLt
  simp only [getLsbD_seven, ne_eq, decide_eq_decide, ← BitVec.toNat_inj, BitVec.toNat_ofNat]
  omega

/-- The flags of R157 for 0 - A are those of R203. -/
theorem SubFlags.negation {t : State} {a res : Byte} (hres : (res.toNat : Int) = (-(a.toNat : Int)) % 256)
    (h : SubFlags t 0#8 a false res) :
    FlagsAre t (res.getLsbD 7) (res == 0#8) (decide (a.toNat % 16 ≠ 0)) (decide (a = 0x80#8)) true
      (decide (a ≠ 0#8)) := by
  obtain ⟨hs, hz, hh, hpv, hn, hc⟩ := h
  refine ⟨hs, hz, hh.trans (decide_eq_decide.mpr ?_), hpv.trans (decide_eq_decide.mpr (negation_overflows_iff hres)),
    hn, hc.trans (decide_eq_decide.mpr ?_)⟩
  · simp [Nat.pos_iff_ne_zero]
  · simp [Nat.pos_iff_ne_zero, ← BitVec.toNat_inj]

/-- Settles O21: NEG is SUB from 0; the others write the flags they name. -/
theorem accumulatorAndCarryOperations : Obligations.AccumulatorAndCarryOperations := by
  intro s
  refine ⟨?cpl, ?neg, ?ccf, ?scf⟩
  case cpl => exact ⟨_, rfl, s.setA_writesA _ _ _ _, State.writeFlags_advance_flags _ _ _ _⟩
  case neg =>
    have hres : ((sub8 0#8 s.main.a false).toNat : Int) = (-(s.main.a.toNat : Int)) % 256 := by
      rw [sub8_toNat]; simp
    exact ⟨_, rfl, _, hres, s.setA_writesA _ _ _ _, (State.writeFlags_sub8 _ _ _ _ _ _ _).negation hres⟩
  case ccf => exact ⟨_, rfl, s.writeFlags_writesA _ _ _, State.writeFlags_advance_flags _ _ _ _⟩
  case scf => exact ⟨_, rfl, s.writeFlags_writesA _ _ _, State.writeFlags_advance_flags _ _ _ _⟩

/-! ### CPU control (42_alu8_control.md R206-R212) -/

/-- Settles O22: but for the fields each one names, every one of them only goes to the next instruction. -/
theorem controlInstructions : Obligations.ControlInstructions := by
  intro s
  refine ⟨?nop, ?halt, ?di, ?ei, ?im0, ?im1, ?im2⟩
  case nop => exact ⟨_, rfl, s.goto_onlyJumps _ _⟩
  case di => exact ⟨_, rfl, rfl, rfl, s.goto_onlyJumps _ _⟩
  case ei =>
    refine ⟨_, rfl, rfl, rfl, ?_, s.goto_onlyJumps _ _⟩
    show (s.cfg.hasInterrupts || s.eiDelay) = _
    cases s.cfg.hasInterrupts <;> rfl
  case halt | im0 | im1 | im2 => exact ⟨_, rfl, rfl, s.goto_onlyJumps _ _⟩

end Sys2Proof.Machine
end
section
/-! PROOF. 16-bit arithmetic: ADD (O23), ADC and SBC (O24), INC and DEC (O25). -/

namespace Sys2Proof.Machine

open Sys2Proof

/-! ### Writing HL or an index register, and F -/

/-- HL takes `w`, F is written; no other register and no memory changes. -/
def WritesHl (s : State) (w len : Word) (cycles : Nat) (t : State) : Prop :=
  t.hl = w ∧ KeepsReg8 [.h, .l] s t ∧ KeepsOthers s t ∧ KeepsMemory s t ∧ EndsAt t (s.pc + len) cycles

/-- The index register `xy` takes `w`, F is written; no other register and no memory changes. -/
def WritesIdx (s : State) (xy : IdxReg) (w len : Word) (cycles : Nat) (t : State) : Prop :=
  t.idx xy = w ∧ (∀ z, z ≠ xy → t.idx z = s.idx z) ∧ KeepsReg8 [] s t ∧ KeepsSp s t ∧ KeepsRest s t ∧
    KeepsMemory s t ∧ EndsAt t (s.pc + len) cycles

theorem State.writeFlags_advance_keepsReg8 (s : State) (f : FlagReg) (len : Word) (n : Nat) :
    KeepsReg8 [] s ((s.writeFlags f).advance len n) := by
  intro r _
  rw [State.advance_reg8, State.writeFlags_reg8]

theorem State.writeFlags_advance_keepsRest (s : State) (f : FlagReg) (len : Word) (n : Nat) :
    KeepsRest s ((s.writeFlags f).advance len n) :=
  (s.writeFlags_keepsRest f).trans (State.advance_keepsRest _ len n)

theorem State.setHl_writesHl (s : State) (w : Word) (f : FlagReg) (len : Word) (n : Nat) :
    WritesHl s w len n (((s.setHl w).writeFlags f).advance len n) :=
  ⟨s.setHl_hl w, (s.setHl_keepsReg8 w).trans (State.writeFlags_advance_keepsReg8 _ f len n),
    ⟨rfl, ⟨rfl, rfl⟩, (s.setPair_keepsRest .hl w).trans (State.writeFlags_advance_keepsRest _ f len n)⟩,
    keepsMemory_of _ _ rfl rfl, ⟨rfl, rfl⟩⟩

theorem State.setIdx_writesIdx (s : State) (xy : IdxReg) (w : Word) (f : FlagReg) (len : Word) (n : Nat) :
    WritesIdx s xy w len n (((s.setIdx xy w).writeFlags f).advance len n) :=
  ⟨by simp, fun z hz => by simp [s.setIdx_idx_other xy z w hz],
    (KeepsReg8.rfl_of s _ (s.setIdx_main xy w)).trans (State.writeFlags_advance_keepsReg8 _ f len n),
    by simp [KeepsSp], (s.setIdx_keepsRest xy w).trans (State.writeFlags_advance_keepsRest _ f len n),
    keepsMemory_of _ _ (by simp) (by simp), by simp [EndsAt]⟩

/-! ### Results and flags as numbers (43_alu16.md R213-R215) -/

theorem add16_toNat (x w : Word) (cin : Bool) : (add16 x w cin).toNat = (x.toNat + w.toNat + cin.toNat) % 0x10000 :=
  BitVec.toNat_ofNat _ 16

theorem sub16_toNat (x w : Word) (cin : Bool) :
    ((sub16 x w cin).toNat : Int) = ((x.toNat : Int) - w.toNat - cin.toNat) % 0x10000 := by
  rw [sub16, BitVec.toNat_ofInt]
  omega

theorem getLsbD_fifteen (w : Word) : w.getLsbD 15 = decide (0x8000 ≤ w.toNat) :=
  BitVec.msb_eq_decide w

/-- The value of a word as a signed number. -/
theorem word_toInt_eq_ite (w : Word) : w.toInt = if 0x8000 ≤ w.toNat then (w.toNat : Int) - 0x10000 else w.toNat := by
  rw [BitVec.toInt_eq_toNat_cond]
  split <;> split <;> omega

/-- A sum overflows where the operands agree in sign and the result does not. -/
theorem add16_overflows_iff (x w : Word) (cin : Bool) :
    (x.getLsbD 15 = w.getLsbD 15 ∧ (add16 x w cin).getLsbD 15 ≠ x.getLsbD 15) ↔
      ¬(-0x8000 ≤ x.toInt + w.toInt + cin.toNat ∧ x.toInt + w.toInt + cin.toNat ≤ 0x7FFF) := by
  have hx := x.isLt
  have hw := w.isLt
  have hc := cin.toNat_le
  simp only [getLsbD_fifteen, word_toInt_eq_ite, add16_toNat, ne_eq, decide_eq_decide]
  split <;> split <;> omega

/-- A difference overflows where the operands differ in sign and the result has the sign of the subtrahend. -/
theorem sub16_overflows_iff (x w : Word) (cin : Bool) :
    (x.getLsbD 15 ≠ w.getLsbD 15 ∧ (sub16 x w cin).getLsbD 15 ≠ x.getLsbD 15) ↔
      ¬(-0x8000 ≤ x.toInt - w.toInt - cin.toNat ∧ x.toInt - w.toInt - cin.toNat ≤ 0x7FFF) := by
  have hx := x.isLt
  have hw := w.isLt
  have hc := cin.toNat_le
  have hres := sub16_toNat x w cin
  simp only [getLsbD_fifteen, word_toInt_eq_ite, ne_eq, decide_eq_decide]
  split <;> split <;> omega

theorem FlagReg.adc16_pv (f : FlagReg) (x w : Word) (cin : Bool) :
    (f.adc16 x w cin).pv =
      !decide (-0x8000 ≤ x.toInt + w.toInt + cin.toNat ∧ x.toInt + w.toInt + cin.toNat ≤ 0x7FFF) := by
  rw [← decide_not, ← decide_eq_decide.mpr (add16_overflows_iff x w cin), Bool.decide_and, decide_not]
  rfl

theorem FlagReg.sbc16_pv (f : FlagReg) (x w : Word) (cin : Bool) :
    (f.sbc16 x w cin).pv =
      !decide (-0x8000 ≤ x.toInt - w.toInt - cin.toNat ∧ x.toInt - w.toInt - cin.toNat ≤ 0x7FFF) := by
  rw [← decide_not, ← decide_eq_decide.mpr (sub16_overflows_iff x w cin), Bool.decide_and, decide_not, decide_not]
  rfl

theorem FlagReg.sbc16_c (f : FlagReg) (x w : Word) (cin : Bool) :
    (f.sbc16 x w cin).c = decide (x.toNat < w.toNat + cin.toNat) :=
  decide_eq_decide.mpr (by omega)

/-! ### The obligations -/

/-- Settles O23: the sum goes to HL or xy, and the flags are those of `FlagReg.add16`. -/
theorem wordAddsSetSumAndCarries : Obligations.WordAddsSetSumAndCarries := by
  intro s
  constructor
  · intro ss
    obtain ⟨hhl, hreg, hothers, hmem, hend⟩ := s.setHl_writesHl (add16 s.hl (s.pair ss) false)
      (s.main.f.add16 s.hl (s.pair ss)) 1#16 11
    exact ⟨_, rfl, by rw [hhl, add16_toNat]; rfl, hreg, State.writeFlags_advance_flags _ _ _ _, hothers, hmem, hend⟩
  · intro xy pp
    obtain ⟨hidx, hother, hreg, hsp, hrest, hmem, hend⟩ := s.setIdx_writesIdx xy
      (add16 (s.idx xy) (s.idxPair xy pp) false) (s.main.f.add16 (s.idx xy) (s.idxPair xy pp)) 2#16 15
    exact ⟨_, rfl, by rw [hidx, add16_toNat]; rfl, hother, hreg, State.writeFlags_advance_flags _ _ _ _, hsp, hrest,
      hmem, hend⟩

/-- Settles O24: the result goes to HL with the flags of `FlagReg.adc16` and `FlagReg.sbc16`, whose PV is signed
overflow. -/
theorem wordAddsAndSubtractsWithCarry : Obligations.WordAddsAndSubtractsWithCarry := by
  intro s ss
  constructor
  · obtain ⟨hhl, hframe⟩ := s.setHl_writesHl (add16 s.hl (s.pair ss) s.main.f.c)
      (s.main.f.adc16 s.hl (s.pair ss) s.main.f.c) 2#16 15
    refine ⟨_, rfl, ?_, ?_, hframe⟩ <;> rw [hhl]
    · exact add16_toNat _ _ _
    · exact ⟨rfl, rfl, rfl, s.main.f.adc16_pv _ _ _, rfl, rfl⟩
  · obtain ⟨hhl, hframe⟩ := s.setHl_writesHl (sub16 s.hl (s.pair ss) s.main.f.c)
      (s.main.f.sbc16 s.hl (s.pair ss) s.main.f.c) 2#16 15
    refine ⟨_, rfl, ?_, ?_, hframe⟩ <;> rw [hhl]
    · exact sub16_toNat _ _ _
    · exact ⟨rfl, rfl, rfl, s.main.f.sbc16_pv _ _ _, rfl, s.main.f.sbc16_c _ _ _⟩

/-- Settles O25: each form is `setPair` or `setIdx` and the end of the instruction, which write no flag. -/
theorem wordIncAndDec : Obligations.WordIncAndDec := by
  intro s
  exact ⟨fun _ => completes_loadsPair rfl, fun _ => completes_loadsIdx rfl, fun _ => completes_loadsPair rfl,
    fun _ => completes_loadsIdx rfl⟩

end Sys2Proof.Machine
end
section
/-! SUPPORT. Shifts, masks and unions of bytes as numbers. -/

namespace Sys2Proof.Machine

open Sys2Proof

theorem shiftLeft_toNat (v : Byte) (k : Nat) : (v <<< k).toNat = v.toNat * 2 ^ k % 256 := by
  rw [BitVec.toNat_shiftLeft, Nat.shiftLeft_eq]

theorem ushiftRight_toNat (v : Byte) (k : Nat) : (v >>> k).toNat = v.toNat / 2 ^ k := by
  rw [BitVec.toNat_ushiftRight, Nat.shiftRight_eq_div_pow]

/-- The bits from `k` up, as a number. -/
theorem and_allOnes_shiftLeft_toNat (v : Byte) (k : Nat) :
    (v &&& BitVec.allOnes 8 <<< k).toNat = v.toNat / 2 ^ k * 2 ^ k := by
  rw [← BitVec.shiftLeft_ushiftRight, shiftLeft_toNat, ushiftRight_toNat,
    Nat.mod_eq_of_lt ((Nat.div_mul_le_self _ _).trans_lt v.isLt)]

/-- Where one byte lies wholly above bit `k` and the other below it, their union is their sum. -/
theorem or_toNat_of_dvd_of_lt (k : Nat) {v w : Byte} (hv : 2 ^ k ∣ v.toNat) (hw : w.toNat < 2 ^ k) :
    (v ||| w).toNat = v.toNat + w.toNat := by
  obtain ⟨q, hq⟩ := hv
  rw [BitVec.toNat_or, hq, Nat.two_pow_add_eq_or_of_lt hw]

theorem lowBit_toNat (c : Bool) : (lowBit c).toNat = c.toNat := by
  cases c <;> rfl

theorem lowBit_shiftLeft_seven_toNat (c : Bool) : (lowBit c <<< 7).toNat = c.toNat * 128 := by
  cases c <;> rfl

/-- A bit put below a byte shifted to the left. -/
theorem shiftLeft_or_lowBit_toNat (v : Byte) (c : Bool) :
    (v <<< 1 ||| lowBit c).toNat = v.toNat * 2 % 256 + c.toNat := by
  have hv : (v <<< 1).toNat = v.toNat * 2 % 256 := shiftLeft_toNat v 1
  have hc := c.toNat_lt
  rw [or_toNat_of_dvd_of_lt 1 (by omega) (by rwa [lowBit_toNat]), hv, lowBit_toNat]

/-- A bit put above a byte shifted to the right. -/
theorem ushiftRight_or_highBit_toNat (v : Byte) (c : Bool) :
    (v >>> 1 ||| lowBit c <<< 7).toNat = v.toNat / 2 + c.toNat * 128 := by
  have hv : (v >>> 1).toNat = v.toNat / 2 := ushiftRight_toNat v 1
  have hc := lowBit_shiftLeft_seven_toNat c
  have hlt := v.isLt
  rw [BitVec.or_comm, or_toNat_of_dvd_of_lt 7 (by omega) (by omega), hv, hc, Nat.add_comm]

theorem getLsbD_zero_eq_bottomBit (v : Byte) : v.getLsbD 0 = bottomBit v := Nat.testBit_zero v.toNat

theorem getLsbD_seven_eq_topBit (v : Byte) : v.getLsbD 7 = topBit v := getLsbD_seven v

theorem bottomBit_toNat (v : Byte) : (bottomBit v).toNat = v.toNat % 2 := by
  rw [← getLsbD_zero_eq_bottomBit, BitVec.getLsbD, Nat.toNat_testBit, Nat.pow_zero, Nat.div_one]

theorem topBit_toNat (v : Byte) : (topBit v).toNat = v.toNat / 128 := by
  have hv := v.isLt
  rw [← getLsbD_seven_eq_topBit, BitVec.getLsbD, Nat.toNat_testBit]
  omega

/-- Bit 7 alone, as SRA keeps it. -/
theorem and_highBit (v : Byte) : v &&& 0x80#8 = lowBit (topBit v) <<< 7 := by
  apply BitVec.eq_of_toNat_eq
  rw [lowBit_shiftLeft_seven_toNat, topBit_toNat]
  exact and_allOnes_shiftLeft_toNat v 7

theorem highNibble_toNat (v : Byte) : (v &&& 0xF0#8).toNat = v.toNat / 16 * 16 :=
  and_allOnes_shiftLeft_toNat v 4

theorem shiftLeft_four_toNat (v : Byte) : (v <<< 4).toNat = v.toNat % 16 * 16 := by
  rw [shiftLeft_toNat]
  omega

theorem highDigit_lt (v : Byte) : v.toNat / 16 < 16 := Nat.div_lt_of_lt_mul v.isLt

theorem lowDigit_lt (v : Byte) : v.toNat % 16 < 16 := Nat.mod_lt _ (by decide)

/-- A byte from a high and a low digit. -/
theorem or_digits_toNat {v w : Byte} {hi lo : Nat} (hv : v.toNat = hi * 16) (hw : w.toNat = lo) (hlo : lo < 16) :
    (v ||| w).toNat = hi * 16 + lo := by
  rw [or_toNat_of_dvd_of_lt 4 ⟨hi, hv.trans (Nat.mul_comm _ _)⟩ (hw.trans_lt hlo), hv, hw]

end Sys2Proof.Machine
end
section
/-! PROOF. The rotates and shifts of A, of a register and of a byte in memory (O26-O28), and the digit rotates
(O29). -/

namespace Sys2Proof.Machine

open Sys2Proof

/-! ### What each rotate and shift computes (44_rotate_bit.md R221-R245) -/

/-- `op` gives the result that `value` names as a number, and moves out the bit `out`. -/
def Rotate.Computes (op : Rotate) (value : Byte → Bool → Nat) (out : Byte → Bool) : Prop :=
  ∀ v cin, (op v cin).1.toNat = value v cin ∧ (op v cin).2 = out v

theorem rl_computes : Rotate.Computes rl rlValue topBit :=
  fun v cin => ⟨shiftLeft_or_lowBit_toNat v cin, getLsbD_seven_eq_topBit v⟩

theorem rr_computes : Rotate.Computes rr rrValue bottomBit :=
  fun v cin => ⟨ushiftRight_or_highBit_toNat v cin, getLsbD_zero_eq_bottomBit v⟩

/-- RLC puts bit 7 where RL puts the carry. -/
theorem rlc_computes : Rotate.Computes rlc (fun v _ => rlcValue v) topBit := by
  refine fun v _ => ⟨(shiftLeft_or_lowBit_toNat v (v.getLsbD 7)).trans ?_, getLsbD_seven_eq_topBit v⟩
  rw [getLsbD_seven_eq_topBit, topBit_toNat]
  rfl

/-- RRC puts bit 0 where RR puts the carry. -/
theorem rrc_computes : Rotate.Computes rrc (fun v _ => rrcValue v) bottomBit := by
  refine fun v _ => ⟨(ushiftRight_or_highBit_toNat v (v.getLsbD 0)).trans ?_, getLsbD_zero_eq_bottomBit v⟩
  rw [getLsbD_zero_eq_bottomBit, bottomBit_toNat]
  rfl

theorem sla_computes : Rotate.Computes sla (fun v _ => slaValue v) topBit :=
  fun v _ => ⟨shiftLeft_toNat v 1, getLsbD_seven_eq_topBit v⟩

/-- SRA puts bit 7 where RR puts the carry. -/
theorem sra_computes : Rotate.Computes sra (fun v _ => sraValue v) bottomBit := by
  refine fun v _ => ⟨?_, getLsbD_zero_eq_bottomBit v⟩
  rw [sra, and_highBit, ushiftRight_or_highBit_toNat, topBit_toNat]
  rfl

theorem srl_computes : Rotate.Computes srl (fun v _ => srlValue v) bottomBit :=
  fun v _ => ⟨ushiftRight_toNat v 1, getLsbD_zero_eq_bottomBit v⟩

/-! ### The three operand forms -/

section
variable {op : Rotate} {value : Byte → Bool → Nat} {out : Byte → Bool} {i : Instr} {s : State}

theorem Rotate.Computes.rotatesA (hop : Rotate.Computes op value out)
    (h : exec i s = .next ((s.rotateA op).advance 1#16 4)) :
    Completes i s (RotatesA s (value s.main.a s.main.f.c) (out s.main.a)) := by
  obtain ⟨hres, hout⟩ := hop s.main.a s.main.f.c
  exact ⟨_, h, _, hres, s.setA_writesA _ _ _ _, hout ▸ State.writeFlags_advance_flags _ _ _ _⟩

theorem Rotate.Computes.rotatesReg {r : Reg8} (hop : Rotate.Computes op value out)
    (h : exec i s = .next ((s.rotateReg op r).advance 2#16 8)) :
    Completes i s (RotatesReg s r (value (s.reg8 r) s.main.f.c) (out (s.reg8 r))) := by
  obtain ⟨hres, hout⟩ := hop (s.reg8 r) s.main.f.c
  exact ⟨_, h, _, hres, s.setReg8_writesReg r _ _ _ _, hout ▸ State.writeFlags_advance_flags _ _ _ _⟩

theorem Rotate.Computes.rotatesByte {a len : Word} {n : Nat} (hop : Rotate.Computes op value out)
    (h : exec i s = .next ((s.rotateByte op a).advance len n)) :
    Completes i s (RotatesByte s a (value · s.main.f.c) out len n) := by
  obtain ⟨hres, hout⟩ := hop (s.memRead a) s.main.f.c
  exact ⟨_, h, _, hres, s.memWrite_writesByte a _ _ _ _, hout ▸ State.writeFlags_advance_flags _ _ _ _⟩

end

/-- Settles O26: each form is `rotateA` of its operation and the end of the instruction. -/
theorem accumulatorRotates : Obligations.AccumulatorRotates := by
  intro s
  exact ⟨rlc_computes.rotatesA rfl, rl_computes.rotatesA rfl, rrc_computes.rotatesA rfl, rr_computes.rotatesA rfl⟩

/-- Settles O27: each form is `rotateReg` of its operation and the end of the instruction. -/
theorem registerRotatesAndShifts : Obligations.RegisterRotatesAndShifts := by
  intro s r
  exact ⟨rlc_computes.rotatesReg rfl, rrc_computes.rotatesReg rfl, rl_computes.rotatesReg rfl,
    rr_computes.rotatesReg rfl, sla_computes.rotatesReg rfl, sra_computes.rotatesReg rfl,
    srl_computes.rotatesReg rfl⟩

/-- Settles O28: each form is `rotateByte` of its operation at its address and the end of the instruction. -/
theorem memoryRotatesAndShifts : Obligations.MemoryRotatesAndShifts := by
  intro s
  refine ⟨rlc_computes.rotatesByte rfl, rrc_computes.rotatesByte rfl, rl_computes.rotatesByte rfl,
    rr_computes.rotatesByte rfl, sla_computes.rotatesByte rfl, sra_computes.rotatesByte rfl,
    srl_computes.rotatesByte rfl, fun xy d => ?_⟩
  exact ⟨rlc_computes.rotatesByte rfl, rrc_computes.rotatesByte rfl, rl_computes.rotatesByte rfl,
    rr_computes.rotatesByte rfl, sla_computes.rotatesByte rfl, sra_computes.rotatesByte rfl,
    srl_computes.rotatesByte rfl⟩

/-! ### RLD and RRD (44_rotate_bit.md R246, R247) -/

/-- The effect of RLD and RRD, whatever the two bytes: the store, and A with its flags. -/
theorem State.rotateDigit_effect (s : State) (m res : Byte) (len : Word) (n : Nat) {t : State}
    (ht : (s.rotateDigit m res).advance len n = t) :
    Stored [(s.hl, m)] s t ∧ t.main.a = res ∧ KeepsReg8 [.a] s t ∧ KeepsOthers s t ∧
      FlagsAre t (res.getLsbD 7) (res == 0#8) false (parity res) false s.main.f.c ∧ EndsAt t (s.pc + len) n := by
  subst ht
  obtain ⟨ha, hreg, ⟨hsp, hindex, hrest⟩, _, hend⟩ :=
    (s.memWrite s.hl m).setA_writesA res (s.main.f.szp res) len n
  exact ⟨Stored.congr _ _ _ _ (s.memWrite_stored s.hl m) rfl rfl, ha, hreg,
    ⟨hsp, hindex, (s.memWrite_keepsRest s.hl m).trans hrest⟩, State.writeFlags_advance_flags _ _ _ _, hend⟩

/-- Settles O29: the stored byte and the new A are each put together from two digits. -/
theorem digitRotates : Obligations.DigitRotates := by
  intro s
  refine ⟨?rld, ?rrd⟩
  case rld =>
    have hm := or_digits_toNat (shiftLeft_four_toNat (s.memRead s.hl)) (lowNibble_toNat s.main.a) (lowDigit_lt _)
    have hres := or_digits_toNat (highNibble_toNat s.main.a) (ushiftRight_toNat (s.memRead s.hl) 4) (highDigit_lt _)
    exact ⟨_, rfl, _, _, hm, hres, s.rotateDigit_effect _ _ _ _ rfl⟩
  case rrd =>
    have hm := or_digits_toNat (shiftLeft_four_toNat s.main.a) (ushiftRight_toNat (s.memRead s.hl) 4) (highDigit_lt _)
    have hres := or_digits_toNat (highNibble_toNat s.main.a) (lowNibble_toNat (s.memRead s.hl)) (lowDigit_lt _)
    exact ⟨_, rfl, _, _, hm, hres, s.rotateDigit_effect _ _ _ _ rfl⟩

end Sys2Proof.Machine
end
section
/-! PROOF. BIT (O30), SET and RES (O31). -/

namespace Sys2Proof.Machine

open Sys2Proof

/-! ### BIT (44_rotate_bit.md R248-R250) -/

theorem State.testBit_tests (s : State) (b : BitVec 3) (v : Byte) (len : Word) (n : Nat) :
    TestsBit s (v.getLsbD b.toNat) len n ((s.testBit b v).advance len n) :=
  ⟨⟨rfl, rfl, rfl, rfl⟩, State.writeFlags_advance_keepsReg8 _ _ len n,
    ⟨rfl, ⟨rfl, rfl⟩, State.writeFlags_advance_keepsRest _ _ len n⟩, keepsMemory_of _ _ rfl rfl, ⟨rfl, rfl⟩⟩

/-- Settles O30: each form is `testBit` of its operand and the end of the instruction. -/
theorem bitTestsReadOneBit : Obligations.BitTestsReadOneBit := by
  intro s b
  exact ⟨fun _ => ⟨_, rfl, s.testBit_tests b _ _ _⟩, ⟨_, rfl, s.testBit_tests b _ _ _⟩,
    fun _ _ => ⟨_, rfl, s.testBit_tests b _ _ _⟩⟩

/-! ### SET and RES (44_rotate_bit.md R251-R256) -/

theorem bitMask_getLsbD (b : BitVec 3) (k : Nat) : (bitMask b).getLsbD k = decide (k = b.toNat) := by
  have h : (bitMask b).getLsbD k = (decide (b.toNat < 8) && decide (b.toNat = k)) :=
    BitVec.getLsbD_twoPow b.toNat k
  rw [h, decide_eq_true b.isLt, Bool.true_and]
  exact decide_eq_decide.mpr eq_comm

theorem setBit_made (b : BitVec 3) (v : Byte) : bitMade b true v (setBit b v) := by
  intro k _
  rw [setBit, BitVec.getLsbD_or, bitMask_getLsbD]
  by_cases h : k = b.toNat <;> simp [h]

theorem resBit_made (b : BitVec 3) (v : Byte) : bitMade b false v (resBit b v) := by
  intro k hk
  rw [resBit, BitVec.getLsbD_and, BitVec.getLsbD_not, bitMask_getLsbD]
  by_cases h : k = b.toNat <;> simp [h, hk]

theorem completes_makesBitOfReg {i : Instr} {s : State} {b : BitVec 3} {on : Bool} {r : Reg8} {v : Byte}
    (hv : bitMade b on (s.reg8 r) v) (h : exec i s = .next ((s.setReg8 r v).advance 2#16 8)) :
    Completes i s (fun t => ∃ v, bitMade b on (s.reg8 r) v ∧ LoadsReg s r v 2#16 8 t) :=
  (completes_loadsReg h).imp fun _ ht => ⟨v, hv, ht⟩

theorem completes_makesBitOfByte {i : Instr} {s : State} {b : BitVec 3} {on : Bool} {a len : Word} {n : Nat}
    {v : Byte} (hv : bitMade b on (s.memRead a) v) (h : exec i s = .next ((s.memWrite a v).advance len n)) :
    Completes i s (fun t => ∃ v, bitMade b on (s.memRead a) v ∧ OnlyStores s [(a, v)] len n t) :=
  (completes_onlyStores h).imp fun _ ht => ⟨v, hv, ht⟩

/-- Settles O31: each form loads or stores `setBit` or `resBit` of its operand. -/
theorem bitSetsAndResetsChangeOneBit : Obligations.BitSetsAndResetsChangeOneBit := by
  intro s b
  exact ⟨fun r => completes_makesBitOfReg (setBit_made b _) rfl, completes_makesBitOfByte (setBit_made b _) rfl,
    fun xy d => completes_makesBitOfByte (setBit_made b _) rfl, fun r => completes_makesBitOfReg (resBit_made b _) rfl,
    completes_makesBitOfByte (resBit_made b _) rfl, fun xy d => completes_makesBitOfByte (resBit_made b _) rfl⟩

end Sys2Proof.Machine
end
section
/-! PROOF. Jumps (O32), CALL and RST (O33), and the returns (O34). -/

namespace Sys2Proof.Machine

open Sys2Proof

/-! ### Conditions and targets (30_encoding.md R81, R91) -/

theorem State.cond_eq_holds (s : State) (cc : Cond) : s.cond cc = s.holds cc := by
  cases cc <;> rfl

theorem State.relTarget_eq_branch (s : State) (e : Byte) : s.relTarget e = s.branch e := by
  rw [State.branch, BitVec.ofInt_add, BitVec.ofInt_add, BitVec.ofInt_natCast, BitVec.ofNat_toNat, BitVec.setWidth_eq]
  rfl

theorem pack_zero (p : Byte) : pack 0#8 p = p.setWidth 16 := (BitVec.setWidth_eq_append (by decide)).symm

/-- A conditional instruction is settled by its two cases, under the condition as the obligations state it. -/
theorem completes_of_cond {i : Instr} {s t u : State} {cc : Cond} {post : State → Prop}
    (h : exec i s = .next (if s.cond cc then t else u)) (taken : s.holds cc = true → post t)
    (skipped : ¬s.holds cc = true → post u) : Completes i s post := by
  refine ⟨_, h, ?_⟩
  rw [s.cond_eq_holds cc]
  by_cases hc : s.holds cc = true
  · rw [if_pos hc]; exact taken hc
  · rw [if_neg hc]; exact skipped hc

/-! ### Jumps (45_jump_call.md R257-R263) -/

theorem completes_onlyJumps {i : Instr} {s : State} {pc : Word} {n : Nat} (h : exec i s = .next (s.goto pc n)) :
    Completes i s (OnlyJumps s pc n) :=
  ⟨_, h, s.goto_onlyJumps pc n⟩

theorem completes_jumpsIf {i : Instr} {s : State} {cc : Cond} {target next : Word} {n m : Nat}
    (h : exec i s = .next (if s.cond cc then s.goto target n else s.goto next m)) :
    Completes i s (OnlyJumps s (if s.holds cc then target else next) (if s.holds cc then n else m)) :=
  completes_of_cond h
    (fun hc => by rw [if_pos hc, if_pos hc]; exact s.goto_onlyJumps target n)
    (fun hc => by rw [if_neg hc, if_neg hc]; exact s.goto_onlyJumps next m)

/-- DJNZ tests the new B for 0, which is the old one for 1. -/
theorem exec_djnzE_eq_setB (e : Byte) (s : State) : exec (.djnzE e) s =
    .next ((s.setB (s.main.b - 1#8)).goto (if s.main.b = 1#8 then s.pc + 2#16 else s.branch e)
      (if s.main.b = 1#8 then 8 else 13)) := by
  show Host.Outcome.next (if (s.main.b - 1#8 != 0#8) = true then _ else _) = _
  rw [sub_bne_zero, s.relTarget_eq_branch e]
  by_cases h : s.main.b = 1#8
  · rw [if_pos h, if_pos h, decide_eq_false (not_not_intro h)]; rfl
  · rw [if_neg h, if_neg h, decide_eq_true h]; rfl

/-- The frame of DJNZ: only B, PC and the cycle count change. -/
theorem State.setB_goto_keeps {s t : State} {v : Byte} {pc : Word} {n : Nat} (h : (s.setB v).goto pc n = t) :
    t.main.b = v ∧ KeepsReg8 [.b] s t ∧ KeepsFlags s t ∧ KeepsOthers s t ∧ KeepsMemory s t ∧ EndsAt t pc n := by
  subst h
  exact ⟨rfl, fun r hr => s.setReg8_reg8_other .b r v (by simpa using hr), ⟨rfl, rfl⟩,
    ⟨rfl, ⟨rfl, rfl⟩, (s.setReg8_keepsRest .b v).trans (State.goto_keepsRest _ pc n)⟩, keepsMemory_of _ _ rfl rfl,
    ⟨rfl, rfl⟩⟩

/-- Settles O32: each jump is `goto`, which is `State.goto_onlyJumps`; DJNZ does it after B was counted down. -/
theorem jumpsLand : Obligations.JumpsLand := by
  intro s
  refine ⟨?jp, ?jpCc, ?jr, ?jrCc, ?jpHl, ?jpXy, ?djnz⟩
  case jp => exact fun nn => completes_onlyJumps rfl
  case jpCc =>
    intro cc nn
    exact (completes_jumpsIf (n := 10) (m := 10) rfl).imp fun t ht => by rwa [ite_self] at ht
  case jr => exact fun e => s.relTarget_eq_branch e ▸ completes_onlyJumps rfl
  case jrCc => exact fun cc e => s.relTarget_eq_branch e ▸ completes_jumpsIf rfl
  case jpHl => exact completes_onlyJumps rfl
  case jpXy => exact fun xy => completes_onlyJumps rfl
  case djnz => exact fun e => ⟨_, exec_djnzE_eq_setB e s, State.setB_goto_keeps rfl⟩

/-! ### Calls and restarts (45_jump_call.md R264, R265, R269) -/

/-- Settles O33: each call is `push16` and `goto`, which is `State.push16_pushes`. -/
theorem callsPushTheReturnAddress : Obligations.CallsPushTheReturnAddress := by
  intro s
  refine ⟨?call, ?callCc, ?rst⟩
  case call => exact fun nn => ⟨_, rfl, s.push16_pushes _ nn 17⟩
  case callCc =>
    intro cc nn
    exact completes_of_cond rfl
      (fun hc => by rw [if_pos hc]; exact s.push16_pushes _ nn 17)
      (fun hc => by rw [if_neg hc]; exact s.goto_onlyJumps _ 10)
  case rst => exact fun p => pack_zero p ▸ ⟨_, rfl, s.push16_pushes _ _ 11⟩

/-! ### Returns (45_jump_call.md R266-R268, R270) -/

/-- But for SP, which rises by 2, a return only goes to the address on the stack. -/
theorem State.dropTop_goto_returns (s : State) (n : Nat) : (s.dropTop.goto s.stackTop n).sp = s.sp + 2#16 ∧
    OnlyJumps s s.stackTop n { s.dropTop.goto s.stackTop n with sp := s.sp } :=
  ⟨rfl, s.goto_onlyJumps s.stackTop n⟩

/-- But for SP and IFF1, which takes IFF2, so does a return from an interrupt. -/
theorem State.returnFromInterrupt_returns (s : State) (n : Nat) : (s.returnFromInterrupt n).sp = s.sp + 2#16 ∧
    (s.returnFromInterrupt n).iff1 = s.iff2 ∧
    OnlyJumps s s.stackTop n { s.returnFromInterrupt n with sp := s.sp, iff1 := s.iff1 } :=
  ⟨rfl, rfl, s.goto_onlyJumps s.stackTop n⟩

/-- Settles O34: RET and RET cc are `dropTop` and `goto`, RETI and RETN are `returnFromInterrupt`. -/
theorem returnsPopTheReturnAddress : Obligations.ReturnsPopTheReturnAddress := by
  intro s
  refine ⟨?ret, ?retCc, ?reti, ?retn⟩
  case ret => exact ⟨_, rfl, s.dropTop_goto_returns 10⟩
  case retCc =>
    intro cc
    exact completes_of_cond rfl
      (fun hc => by rw [if_pos hc]; exact s.dropTop_goto_returns 11)
      (fun hc => by rw [if_neg hc]; exact s.goto_onlyJumps _ 5)
  case reti => exact ⟨_, rfl, s.returnFromInterrupt_returns 14⟩
  case retn => exact ⟨_, rfl, s.returnFromInterrupt_returns 14⟩

end Sys2Proof.Machine
end
section
/-! PROOF. IN and OUT (O35), block input (O36), block output (O37). -/

namespace Sys2Proof.Machine

open Sys2Proof

/-! ### One port access, and what may follow it (46_io.md R271) -/

theorem State.ioRead_readsPort (s : State) (port : Word) : ReadsPort s port (s.ioAnswer port) (s.ioRead port) :=
  ⟨rfl, rfl, rfl⟩

theorem State.ioWrite_writesPort (s : State) (port : Word) (v : Byte) : WritesPort s port v (s.ioWrite port v) :=
  ⟨rfl, rfl⟩

theorem KeepsOthers.keepsIo {s t : State} (h : KeepsOthers s t) : KeepsIo s t :=
  let ⟨_, _, _, _, _, hio, _⟩ := h
  hio

theorem KeepsOthers.butIo {s t : State} (h : KeepsOthers s t) : KeepsOthersButIo s t :=
  let ⟨hsp, hindex, halt, hir, hcontrol, _, hhost⟩ := h
  ⟨hsp, hindex, halt, hir, hcontrol, hhost⟩

theorem KeepsOthers.goto {s t : State} (h : KeepsOthers s t) (pc : Word) (n : Nat) : KeepsOthers s (t.goto pc n) :=
  let ⟨hsp, hindex, hrest⟩ := h
  ⟨hsp, hindex, hrest.trans (t.goto_keepsRest pc n)⟩

/-- A read stays the latest access while nothing touches the I/O record. -/
theorem ReadsPort.of_keepsIo {s t u : State} {port : Word} {v : Byte} (h : ReadsPort s port v t) (k : KeepsIo t u) :
    ReadsPort s port v u :=
  let ⟨hv, hinput, hevents⟩ := h
  ⟨hv, k.1.trans hinput, k.2.trans hevents⟩

/-- A write stays the latest access while nothing touches the I/O record. -/
theorem WritesPort.of_keepsIo {s t u : State} {port : Word} {v : Byte} (h : WritesPort s port v t)
    (k : KeepsIo t u) : WritesPort s port v u :=
  ⟨k.1.trans h.1, k.2.trans h.2⟩

/-- After a read of a port, what keeps all the rest has done that one read and nothing else to the rest. -/
theorem readsPort_of_keepsOthers {s t : State} {port : Word} (h : KeepsOthers (s.ioRead port) t) :
    ReadsPort s port (s.ioAnswer port) t ∧ KeepsOthersButIo s t :=
  ⟨(s.ioRead_readsPort port).of_keepsIo h.keepsIo, h.butIo⟩

/-- After a write of a port, what keeps all the rest has done that one write and nothing else to the rest. -/
theorem writesPort_of_keepsOthers {s t : State} {port : Word} {v : Byte} (h : KeepsOthers (s.ioWrite port v) t) :
    WritesPort s port v t ∧ KeepsOthersButIo s t :=
  ⟨(s.ioWrite_writesPort port v).of_keepsIo h.keepsIo, h.butIo⟩

/-! ### IN and OUT (46_io.md R272, R273, R278, R279) -/

/-- A write of a port and the end of the instruction. -/
theorem State.ioWrite_advance_writes (s : State) (port : Word) (v : Byte) (len : Word) (n : Nat) {t : State}
    (ht : (s.ioWrite port v).advance len n = t) : WritesPort s port v t ∧ KeepsReg8 [] s t ∧ KeepsFlags s t ∧
      KeepsOthersButIo s t ∧ KeepsMemory s t ∧ EndsAt t (s.pc + len) n := by
  subst ht
  obtain ⟨hreg, hflags, hothers, hmem, hend⟩ := (s.ioWrite port v).goto_onlyJumps (s.pc + len) n
  obtain ⟨hport, hothers⟩ := writesPort_of_keepsOthers hothers
  exact ⟨hport, hreg, hflags, hothers, hmem, hend⟩

/-- Settles O35: after the read, IN A,(n) is the load of A and IN r,(C) the write of r and F; OUT only ends. -/
theorem portReadsAndWrites : Obligations.PortReadsAndWrites := by
  intro s
  refine ⟨?inA, ?inR, fun n => ⟨_, rfl, s.ioWrite_advance_writes _ _ _ _ rfl⟩,
    fun r => ⟨_, rfl, s.ioWrite_advance_writes _ _ _ _ rfl⟩⟩
  case inA =>
    intro n
    obtain ⟨ha, hreg, hflags, hothers, hmem, hend⟩ :=
      (s.ioRead (pack s.main.a n)).setReg8_loads .a (s.ioAnswer (pack s.main.a n)) 2#16 11
    obtain ⟨hport, hothers⟩ := readsPort_of_keepsOthers hothers
    exact ⟨_, rfl, _, hport, ha, hreg, hflags, hothers, hmem, hend⟩
  case inR =>
    intro r
    obtain ⟨hr, hreg, hothers, hmem, hend⟩ :=
      (s.ioRead s.bc).setReg8_writesReg r (s.ioAnswer s.bc) (s.main.f.szp (s.ioAnswer s.bc)) 2#16 12
    obtain ⟨hport, hothers⟩ := readsPort_of_keepsOthers hothers
    exact ⟨_, rfl, _, hport, hr, hreg, State.writeFlags_advance_flags _ _ _ _, hothers, hmem, hend⟩

/-! ### What block input and block output share (46_io.md R274) -/

theorem State.blockIoFlags_reg8 (s : State) (r : Reg8) : s.blockIoFlags.reg8 r = s.reg8 r :=
  (s.useDraws 4).writeFlags_reg8 _ r

theorem State.blockIoFlags_keepsRest (s : State) : KeepsRest s s.blockIoFlags := State.writeFlags_keepsRest _ _

/-- B counts down, HL moves, and F is written. Block I/O does this besides its one access to a port. -/
def State.countB (s : State) (step : Word) : State :=
  ((s.setB (s.main.b - 1#8)).setHl (s.hl + step)).blockIoFlags

theorem State.inputByte_eq_countB (s : State) (step : Word) :
    s.inputByte step = ((s.ioRead s.bc).memWrite s.hl (s.ioAnswer s.bc)).countB step := rfl

theorem State.outputByte_eq_countB (s : State) (step : Word) : s.outputByte step =
    (s.ioWrite (pack (s.main.b - 1#8) s.main.c) (s.memRead s.hl)).countB step := rfl

theorem State.countB_keepsReg8 (s : State) (step : Word) : KeepsReg8 [.b, .h, .l] s (s.countB step) := by
  have hb : KeepsReg8 [.b] s (s.setB (s.main.b - 1#8)) := fun r hr =>
    s.setReg8_reg8_other .b r _ (by simpa using hr)
  exact (hb.trans (State.setHl_keepsReg8 _ (s.hl + step))).trans fun r _ => State.blockIoFlags_reg8 _ r

theorem State.countB_keepsOthers (s : State) (step : Word) : KeepsOthers s (s.countB step) :=
  ⟨rfl, ⟨rfl, rfl⟩, ((s.setReg8_keepsRest .b (s.main.b - 1#8)).trans
    (State.setPair_keepsRest _ .hl (s.hl + step))).trans (State.blockIoFlags_keepsRest _)⟩

theorem State.countB_hl (s : State) (step : Word) : (s.countB step).hl = s.hl + step :=
  (s.setB (s.main.b - 1#8)).setHl_hl (s.hl + step)

/-- Z is taken from the new B, which is 0 where the old one is 1. -/
theorem State.countB_flags (s : State) (step : Word) : BlockIoFlags s (s.countB step) :=
  ⟨sub_beq_zero s.main.b 1#8, rfl⟩

/-- Block I/O goes on while the new B is not 0. -/
theorem State.ioGoesOn_eq (s : State) : s.ioGoesOn = decide (s.main.b ≠ 1#8) := sub_bne_zero s.main.b 1#8

/-! ### Block input (46_io.md R274-R277) -/

/-- One iteration, whatever its direction and wherever it ends: the byte read is stored, then B counts down. -/
theorem State.inputByte_inputs (s : State) (dir pc : Word) (n : Nat) :
    InputsByte s dir pc n ((s.inputByte dir).goto pc n) := by
  rw [s.inputByte_eq_countB]
  obtain ⟨hsp, hindex, hrest⟩ :=
    (((s.ioRead s.bc).memWrite s.hl (s.ioAnswer s.bc)).countB_keepsOthers dir).goto pc n
  obtain ⟨hport, hothers⟩ := readsPort_of_keepsOthers (s := s) (port := s.bc)
    ⟨hsp, hindex, ((s.ioRead s.bc).memWrite_keepsRest s.hl (s.ioAnswer s.bc)).trans hrest⟩
  exact ⟨_, hport, Stored.congr _ _ _ _ (s.memWrite_stored s.hl (s.ioAnswer s.bc)) rfl rfl, rfl, State.countB_hl _ dir,
    State.countB_keepsReg8 _ dir, State.countB_flags _ dir, hothers, ⟨rfl, rfl⟩⟩

/-- An iteration that does not repeat ends as every instruction does. -/
theorem State.inputByte_advance_inputs (s : State) (dir len : Word) (n : Nat) :
    InputsByte s dir (s.pc + len) n ((s.inputByte dir).advance len n) := s.inputByte_inputs dir (s.pc + len) n

theorem State.inputByte_repeats (s : State) (dir : Word) :
    Repeats (decide (s.main.b ≠ 1#8)) s (InputsByte s dir) ((s.inputByte dir).endIteration s.ioGoesOn) := by
  rw [s.ioGoesOn_eq]
  exact State.endIteration_repeats _ rfl (s.inputByte_inputs dir)

/-- Settles O36: INI and IND are one iteration, INIR and INDR the same iteration ended by `ioGoesOn`. -/
theorem blockInputsStoreOneByte : Obligations.BlockInputsStoreOneByte := by
  intro s
  exact ⟨⟨_, rfl, s.inputByte_advance_inputs _ _ _⟩, ⟨_, rfl, s.inputByte_repeats _⟩,
    ⟨_, rfl, s.inputByte_advance_inputs _ _ _⟩, ⟨_, rfl, s.inputByte_repeats _⟩⟩

/-! ### Block output (46_io.md R280-R283) -/

/-- One iteration, whatever its direction and wherever it ends: the port has the new B. -/
theorem State.outputByte_outputs (s : State) (dir pc : Word) (n : Nat) :
    OutputsByte s dir pc n ((s.outputByte dir).goto pc n) := by
  rw [s.outputByte_eq_countB]
  obtain ⟨hport, hothers⟩ := writesPort_of_keepsOthers ((State.countB_keepsOthers _ dir).goto pc n)
  exact ⟨hport, keepsMemory_of _ _ rfl rfl, rfl, State.countB_hl _ dir, State.countB_keepsReg8 _ dir,
    State.countB_flags _ dir, hothers, ⟨rfl, rfl⟩⟩

/-- An iteration that does not repeat ends as every instruction does. -/
theorem State.outputByte_advance_outputs (s : State) (dir len : Word) (n : Nat) :
    OutputsByte s dir (s.pc + len) n ((s.outputByte dir).advance len n) := s.outputByte_outputs dir (s.pc + len) n

theorem State.outputByte_repeats (s : State) (dir : Word) :
    Repeats (decide (s.main.b ≠ 1#8)) s (OutputsByte s dir) ((s.outputByte dir).endIteration s.ioGoesOn) := by
  rw [s.ioGoesOn_eq]
  exact State.endIteration_repeats _ rfl (s.outputByte_outputs dir)

/-- Settles O37: OUTI and OUTD are one iteration, OTIR and OTDR the same iteration ended by `ioGoesOn`. -/
theorem blockOutputsWriteOneByte : Obligations.BlockOutputsWriteOneByte := by
  intro s
  exact ⟨⟨_, rfl, s.outputByte_advance_outputs _ _ _⟩, ⟨_, rfl, s.outputByte_repeats _⟩,
    ⟨_, rfl, s.outputByte_advance_outputs _ _ _⟩, ⟨_, rfl, s.outputByte_repeats _⟩⟩

end Sys2Proof.Machine
end
section
/-! PROOF. Taking an interrupt: the NMI (O43), the maskable interrupt (O44), and RETN after an NMI (O45). -/

namespace Sys2Proof.Machine

open Sys2Proof

/-! ### Which acceptance a step makes (60_exceptions.md R288) -/

theorem step_of_nmi {s : State} (hc : s.cfg.hasInterrupts = true) (hf : s.fault = none)
    (hn : s.nmiPending = true) : step s = .next s.acceptNmi := by
  have ha : s.acceptance = .nmi := by rw [State.acceptance, if_pos hc, if_pos hn]
  rw [step, runStep, hf, ha]

theorem step_of_takesInt {s : State} (h : s.takesInt) : step s = .next s.acceptInt := by
  obtain ⟨hc, hf, hn, hl, h1, he⟩ := h
  have ha : s.acceptance = .maskable := by simp [State.acceptance, hc, hn, hl, h1, he]
  rw [step, runStep, hf, ha]

/-! ### Entering the handler (60_exceptions.md R294) -/

/-- The machine as it pushes PC, in either acceptance: what an acceptance begins with is done, and the three bits
in which the two differ have these values. -/
def State.begun (s : State) (iff2 nmiPending eiDelay : Bool) : State :=
  { s with
    regR := refreshed s.regR, halted := false, iff1 := false, iff2 := iff2, nmiPending := nmiPending
    eiDelay := eiDelay }

theorem State.nmiBegun_eq_begun (s : State) : s.nmiBegun = s.begun s.iff2 false false := rfl

theorem State.maskableBegun_eq_begun (s : State) : s.maskableBegun = s.begun false s.nmiPending s.eiDelay := rfl

/-- `Stored` speaks of the memory controller and the parameters before the stores only. -/
theorem Stored.congr_left {stores : List (Word × Byte)} {s b t : State} (h : Stored stores b t) (hm : b.mc = s.mc)
    (hc : b.cfg = s.cfg) : Stored stores s t := by
  obtain ⟨hmc, hout, hin⟩ := h
  refine ⟨by rw [hmc, hm], fun x hx => ?_, fun p hp hs => ?_⟩
  · rw [hout x fun p hp => by simpa only [State.outside, hm] using hx p hp, State.memRead_congr s b x hm hc]
  · exact hin p hp (by simpa only [State.storable, hm] using hs)

/-- Whatever those bits are, the push of PC and the jump do all that `EntersHandler` says. -/
theorem State.begun_entersHandler {s : State} (hf : s.fault = none) (iff2 nmiPending eiDelay : Bool)
    (handler : Word) (cycles : Nat) :
    EntersHandler s handler cycles ((s.begun iff2 nmiPending eiDelay).enterHandler handler cycles) := by
  obtain ⟨hsp, hstored, hreg, hflags, hindex, hrest, hend⟩ :=
    (s.begun iff2 nmiPending eiDelay).push16_pushes (s.begun iff2 nmiPending eiDelay).pc handler cycles
  obtain ⟨halt, ⟨hI, hR⟩, ⟨h1, _, him, hh, _⟩, hio, hfault, _, hline, hdata, hcfg, _⟩ := hrest
  exact ⟨hstored.congr_left rfl rfl, hsp, hend, hh, h1, hR, hI, him, hfault.trans hf, hreg, hflags, hindex, halt,
    hio, hline, hdata, hcfg⟩

theorem State.maskableBegun_entersHandler {s : State} (hf : s.fault = none) (handler : Word) (cycles : Nat) :
    EntersHandler s handler cycles (s.maskableBegun.enterHandler handler cycles) := by
  rw [s.maskableBegun_eq_begun]
  exact State.begun_entersHandler hf _ _ _ handler cycles

/-- Settles O43: the NMI enters 0x0066, and IFF2 is not among what an acceptance begins with. -/
theorem nmiIsTaken : Obligations.NmiIsTaken := by
  intro s hc hf hn
  refine ⟨_, step_of_nmi hc hf hn, ?_, rfl, rfl⟩
  rw [s.acceptNmi_eq, s.nmiBegun_eq_begun]
  exact State.begun_entersHandler hf _ _ _ _ _

/-! ### The maskable interrupt by mode (60_exceptions.md R290, R291) -/

theorem isRst_iff (v : Byte) : isRst v = true ↔ v.toNat / 64 = 3 ∧ v.toNat % 8 = 7 := by
  revert v; decide

theorem rstTarget_toNat (v : Byte) : ((v &&& 0x38#8).setWidth 16).toNat = v.toNat / 8 % 8 * 8 := by
  revert v; decide

/-- In every mode IFF2 is cleared, and what chose the acceptance stays. -/
theorem State.acceptInt_bits (s : State) :
    s.acceptInt.iff2 = false ∧ s.acceptInt.nmiPending = s.nmiPending ∧ s.acceptInt.eiDelay = s.eiDelay := by
  rcases s.acceptInt_cases with ⟨handler, cycles, _, e⟩ | e <;> rw [e]
  · obtain ⟨_, _, ⟨_, h2, _, _, he⟩, _, _, hn, _⟩ := s.maskableBegun.enterHandler_keepsRest handler cycles
    exact ⟨h2, hn, he⟩
  · exact ⟨rfl, rfl, rfl⟩

/-- Settles O44: each mode enters its handler, but mode 0 with a byte that is no RST, which raises Unimplemented. -/
theorem maskableInterruptIsTaken : Obligations.MaskableInterruptIsTaken := by
  intro s ht
  have ⟨_, hf, hn, _⟩ := ht
  obtain ⟨h2, hnmi, _⟩ := s.acceptInt_bits
  refine ⟨s.acceptInt, step_of_takesInt ht, h2, hnmi.trans hn, ?_⟩
  unfold State.acceptInt
  cases s.im with
  | mode0 =>
    simp only [← isRst_iff]
    by_cases hrst : isRst s.intData = true
    · simp only [if_pos hrst]
      exact ⟨_, rstTarget_toNat s.intData, State.maskableBegun_entersHandler hf _ 13⟩
    · simp only [if_neg hrst]
      exact ⟨rfl, ⟨rfl, rfl⟩, rfl, rfl, rfl, keepsMemory_of _ _ rfl rfl, KeepsReg8.rfl_of _ _ rfl, ⟨rfl, rfl⟩, rfl,
        ⟨rfl, rfl⟩, rfl⟩
  | mode1 => exact State.maskableBegun_entersHandler hf _ 13
  | mode2 => exact State.maskableBegun_entersHandler hf _ 19

/-! ### The return (60_exceptions.md R296) -/

/-- Entering a handler and returning at once puts SP back and keeps the registers and IFF2; IFF1 takes IFF2, and PC
the word the pop finds. -/
theorem State.enterHandler_returnFromInterrupt (s : State) (handler : Word) (cycles n : Nat) {u : State}
    (hu : (s.enterHandler handler cycles).returnFromInterrupt n = u) :
    u.pc = (s.push16 s.pc).stackTop ∧ u.sp = s.sp ∧ u.iff1 = s.iff2 ∧ u.iff2 = s.iff2 ∧ u.main = s.main ∧
      u.alt = s.alt ∧ KeepsIndex s u := by
  subst hu
  have hsp : (s.push16 s.pc).sp + 2#16 = s.sp := by
    rw [State.push16_sp]
    exact BitVec.sub_add_cancel s.sp 2#16
  obtain ⟨halt, _, ⟨_, h2, _⟩, _⟩ := s.enterHandler_keepsRest handler cycles
  exact ⟨rfl, hsp, h2, h2, s.push16_main s.pc, halt, s.push16_ix s.pc, s.push16_iy s.pc⟩

/-- Settles O45: the NMI pushes PC and keeps IFF2 and the registers; RETN pops the word just pushed. -/
theorem retnUndoesNmi : Obligations.RetnUndoesNmi := by
  intro s hc hf hn hhi hlo
  obtain ⟨hpc, hsp, h1, h2, hmain, halt, hindex⟩ := s.nmiBegun.enterHandler_returnFromInterrupt 0x0066#16 11 14 rfl
  exact ⟨s.acceptNmi, _, step_of_nmi hc hf hn, rfl, hpc.trans (s.nmiBegun.push16_stackTop s.pc hhi hlo), hsp, h1, h2,
    hmain, halt, hindex⟩

end Sys2Proof.Machine
end

section
/-! PROOF. The delay after EI (O46), and the steps that raise Unimplemented or find the machine faulted (O40,
O41). -/

namespace Sys2Proof.Machine

open Sys2Proof

/-! ### The delay after EI (60_exceptions.md R287) -/

theorem State.setInt_eiDelay (s : State) (level : Bool) (data : Byte) : (s.setInt level data).eiDelay = s.eiDelay := by
  unfold State.setInt
  split <;> rfl

theorem State.acceptance_ne_maskable_of_eiDelay {s : State} (h : s.eiDelay = true) : s.acceptance ≠ .maskable := by
  intro hm
  rcases s.acceptance_cases with ⟨ha, _⟩ | ⟨_, _, _, _, _, he⟩ | ⟨ha, _⟩
  · cases ha.symm.trans hm
  · exact Bool.false_ne_true (he.symm.trans h)
  · cases ha.symm.trans hm

/-- A maskable acceptance leaves `ei_delay`, which was clear. -/
theorem State.acceptInt_eiDelay {s : State} (h : s.takesInt) : s.acceptInt.eiDelay = false := by
  obtain ⟨_, _, _, _, _, he⟩ := h
  obtain ⟨_, _, hkept⟩ := s.acceptInt_bits
  exact hkept.trans he

theorem State.haltedCycle_eiDelay {s : State} (hc : s.cfg.hasInterrupts = true) : s.haltedCycle.eiDelay = false := by
  rw [s.haltedCycle_eq]
  simp [hc]

/-- After an instruction `ei_delay` is set exactly where that instruction is EI. -/
theorem ExecKeeps.eiDelay_iff {i : Instr} {s t : State} (hc : s.cfg.hasInterrupts = true)
    (hk : ExecKeeps i s.ready t) : t.eiDelay = true ↔ i = .ei := by
  rw [s.ready_eq] at hk
  obtain ⟨_, _, _, _, _, _, _, _, _, _, kei, kother, _⟩ := hk
  by_cases hi : i = .ei
  · simp [(kei hi).2, hc, hi]
  · simp [kother hi, hc, hi]

/-- Settles O46: of the five ways `step_cases` names, only the run of EI leaves `ei_delay` set. -/
theorem eiDelaysAcceptanceByOneStep : Obligations.EiDelaysAcceptanceByOneStep := by
  intro s t hc h hf
  refine ⟨?_, fun level data he =>
    State.acceptance_ne_maskable_of_eiDelay ((t.setInt_eiDelay level data).trans he)⟩
  have hneither (he : t.eiDelay = false) (hr : ¬ s.runs) : t.eiDelay = true ↔ s.runs ∧ s.fetchesAs (.ok .ei) :=
    iff_of_false (by simp [he]) fun ⟨hruns, _⟩ => hr hruns
  obtain ⟨_, ⟨_, hn, rfl⟩ | ⟨ht, rfl⟩ | ⟨hh, rfl⟩ | ⟨_, _, _, rfl⟩ | ⟨hr, i, hd, _, hk⟩⟩ := step_cases h
  · exact hneither rfl (not_runs_of_nmi hc hn)
  · exact hneither (State.acceptInt_eiDelay ht) (not_runs_of_takesInt ht)
  · exact hneither (State.haltedCycle_eiDelay hc) (not_runs_of_halted hh)
  · cases hf
  · have hfetch : s.fetchesAs (.ok .ei) ↔ i = .ei := by
      show s.decoded = .ok .ei ↔ i = .ei
      rw [hd, Except.ok.injEq]
    rw [hk.eiDelay_iff hc, hfetch, and_iff_right hr]

/-! ### Unimplemented and Faulted (60_exceptions.md R284-R286) -/

/-- Settles O40: such a step raises Unimplemented on the bytes read, four behind DD CB or FD CB and else two. -/
theorem undecodableBytesFault : Obligations.UndecodableBytesFault := by
  intro s e hr hd
  have hdec : s.decoded = .error e := hd
  refine ⟨s.fetched.take e.bytesRead, by cases e <;> rfl, ?_⟩
  rw [step_of_runs hr, State.runInstruction, hdec, s.fetchRefresh_eq]
  rfl

theorem step_of_fault {s : State} {info : Unimplemented} (h : s.fault = some info) :
    step s = .fault (.faulted info) := by
  rw [step, runStep, h]

/-- Settles O41: the step looks at the fault first, and the host's step passes the machine on. -/
theorem faultedMachineDoesNothing : Obligations.FaultedMachineDoesNothing := by
  intro s info h
  exact ⟨step_of_fault h, by rw [State.hostStep, step_of_fault h]⟩

end Sys2Proof.Machine
end

section
/-! PROOF. One frame of steps (O60): the loop of update() (60_exceptions.md R295), by the three ways it can go. -/

namespace Sys2Proof.Machine

open Sys2Proof

/-- An Ok step of the host is a step without a fault, of 4 to 23 cycles. -/
theorem State.hostStep_ok_cost {s t : State} (h : s.hostStep = (.ok, t)) : 4 ≤ t.lastCycles ∧ t.lastCycles ≤ 23 := by
  unfold State.hostStep at h
  cases hstep : step s with
  | next u =>
    cases hf : u.fault with
    | none =>
      simp only [hstep, hf, Prod.mk.injEq, true_and] at h
      subst h
      exact (stepCostsAreBounded s u hstep).1 hf
    | some info => simp [hstep, hf] at h
  | fault r => simp [hstep] at h
  | refused r => simp [hstep] at h

theorem runOk_succ {s t : State} (h : s.hostStep = (.ok, t)) (n : Nat) :
    runOk (n + 1) s = (runOk n t).map fun p => (p.1, t.lastCycles + p.2) := by
  simp only [runOk, h]
  cases runOk n t <;> rfl

/-- `result` is what the loop of R295 answers from `s` with `acc` cycles counted: after `n` Ok steps, each begun
below the budget, the sum has reached it by at most 22 too many, or the next step is not Ok. -/
def FrameEnds (budget acc : Nat) (s : State) (result : HostOutcome × State) : Prop :=
  ∃ (n : Nat) (u : State) (cost : Nat), runOk n s = some (u, cost) ∧
    (∀ m, m < n → ∃ (v : State) (c : Nat), runOk m s = some (v, c) ∧ acc + c < budget) ∧
    ((result = (.ok, u) ∧ budget ≤ acc + cost ∧ acc + cost ≤ budget + 22) ∨
      (acc + cost < budget ∧ result = u.hostStep ∧ u.hostStep.1 ≠ .ok))

theorem FrameEnds.reached {budget acc : Nat} {s : State} (hlo : budget ≤ acc) (hhi : acc ≤ budget + 22) :
    FrameEnds budget acc s (.ok, s) :=
  ⟨0, s, 0, rfl, fun _ hm => absurd hm (Nat.not_lt_zero _), .inl ⟨rfl, hlo, hhi⟩⟩

theorem FrameEnds.stopped {budget acc : Nat} {s : State} (hlt : acc < budget) (h : s.hostStep.1 ≠ .ok) :
    FrameEnds budget acc s s.hostStep :=
  ⟨0, s, 0, rfl, fun _ hm => absurd hm (Nat.not_lt_zero _), .inr ⟨hlt, rfl, h⟩⟩

/-- An Ok step begun below the budget goes before the steps that follow it. -/
theorem FrameEnds.step {budget acc : Nat} {s t : State} {result : HostOutcome × State} (hlt : acc < budget)
    (h : s.hostStep = (.ok, t)) (hrest : FrameEnds budget (acc + t.lastCycles) t result) :
    FrameEnds budget acc s result := by
  obtain ⟨n, u, cost, hrun, hbelow, hend⟩ := hrest
  simp only [Nat.add_assoc] at hbelow hend
  refine ⟨n + 1, u, t.lastCycles + cost, by rw [runOk_succ h, hrun]; rfl, fun m hm => ?_, hend⟩
  cases m with
  | zero => exact ⟨s, 0, rfl, hlt⟩
  | succ k =>
    obtain ⟨v, c, hv, hc⟩ := hbelow k (Nat.lt_of_succ_lt_succ hm)
    exact ⟨v, t.lastCycles + c, by rw [runOk_succ h, hv]; rfl, hc⟩

/-- One turn of the loop for each unit of the budget that is left is enough, since an Ok step has a cost. -/
theorem updateLoop_frameEnds {budget fuel acc : Nat} {s : State} (hfuel : budget ≤ acc + fuel)
    (hacc : acc ≤ budget + 22) : FrameEnds budget acc s (updateLoop budget fuel acc s) := by
  induction fuel generalizing acc s with
  | zero => exact FrameEnds.reached hfuel hacc
  | succ k ih =>
    rw [updateLoop]
    split
    case isFalse hge => exact FrameEnds.reached (Nat.le_of_not_lt hge) hacc
    case isTrue hlt =>
      split
      case h_1 t hstep =>
        obtain ⟨hlo, hhi⟩ := State.hostStep_ok_cost hstep
        exact FrameEnds.step hlt hstep (ih (by omega) (by omega))
      case h_2 o t hnot hstep =>
        rw [← hstep]
        exact FrameEnds.stopped hlt fun hok => hnot ((congrArg Prod.fst hstep).symm.trans hok)

/-- Settles O60: the loop starts with nothing counted and as many turns as the budget has cycles. -/
theorem updateRunsOneFrame : Obligations.UpdateRunsOneFrame := by
  intro s
  refine ⟨fun href => by rw [href]; rfl, fun hzero => ?_, ?_⟩
  · have hbudget : frameBudget s.cfg = 0 := hzero
    rw [State.update, hbudget, updateLoop]
  · have hframe : FrameEnds (frameBudget s.cfg) 0 s s.update := updateLoop_frameEnds (by omega) (by omega)
    simpa only [FrameEnds, Nat.zero_add, frameBudget] using hframe

end Sys2Proof.Machine
end
